-- ==== Sys2Proof/Word.lean ====
section
/-! DEFINITION. The widths of the FPE (00_scope.md R7): bytes, 16-bit and 32-bit values. -/

namespace Sys2Proof

/-- A byte of the wire, a type byte, an opcode byte, a status code (R7). -/
abbrev Byte := BitVec 8

/-- A 16-bit value: the on-wire length, the checksum, a location, a result value (R7). -/
abbrev Half := BitVec 16

/-- A 32-bit value: the device address, the password, a time in milliseconds (R7). -/
abbrev Word := BitVec 32

end Sys2Proof
end

