-- ==== Sys2Proof/Config.lean ====
section
/-! DEFINITION. The parameters of one FPE instance (00_scope.md R6), the default opcode bytes
(30_encoding.md R80) and the two OPEN parameters as constants without a value. -/

namespace Sys2Proof

/-- `OPCODE[c]`, one byte per command. The defaults are those of R80, which the spec marks as general
knowledge (PRESUMED, log 10); no rule depends on them but the byte put at payload index 0. -/
structure OpcodeTable where
  verifyPassword   : Byte := 0x13
  captureImage     : Byte := 0x01
  extractFeatures  : Byte := 0x02
  createModel      : Byte := 0x05
  storeModel       : Byte := 0x06
  loadModel        : Byte := 0x07
  uploadModel      : Byte := 0x08
  downloadModel    : Byte := 0x09
  deleteModel      : Byte := 0x0C
  emptyDatabase    : Byte := 0x0D
  fastSearch       : Byte := 0x1B
  getTemplateCount : Byte := 0x1D
  setPassword      : Byte := 0x12
deriving DecidableEq, Repr

/-- The parameter table of R6. The bounds the table gives are carried as proofs, so an instance that
breaks one cannot be written down. -/
structure Config where
  /-- `INIT_ADDRESS`, default broadcast. -/
  initAddress : Word := 0xFFFFFFFF
  /-- `INIT_PASSWORD`, OPEN. -/
  initPassword : Word
  /-- `MAX_PAYLOAD`, the one bound for frames sent and received. -/
  maxPayload : Nat := 128
  /-- `POLL_MS`, the lateness a timeout may have (R144). -/
  pollMs : Nat := 1
  /-- `DEFAULT_TIMEOUT_MS`, advice to the host (R171); no FPE rule reads it. -/
  defaultTimeoutMs : Word := 1000
  /-- `BULK_TIMEOUT_MS`, advice to the host (R171); no FPE rule reads it. -/
  bulkTimeoutMs : Word := 20000
  /-- `LIBRARY_CAPACITY`, OPEN, 1..65536. -/
  libraryCapacity : Nat
  /-- `SEARCH_PAGE_COUNT`, the page count FastSearch sends (R211). -/
  searchPageCount : Half := 0x00A3
  /-- `OPCODE[c]` (R80). -/
  opcodes : OpcodeTable := {}
  /-- `SETTLE_MS`, a host duty (R273); no FPE rule reads it. -/
  settleMs : Nat := 1000
  /-- `BAUD`, the transport's (R6); no FPE rule reads it. -/
  baud : Nat := 57600
  maxPayload_le : maxPayload ≤ 65533 := by decide
  pollMs_pos : 1 ≤ pollMs := by decide
  libraryCapacity_pos : 1 ≤ libraryCapacity
  libraryCapacity_le : libraryCapacity ≤ 65536
deriving DecidableEq, Repr

/-- DESIGN CHOICE (log 8): `INIT_PASSWORD` is OPEN (R6, I6), so the instance of `State.reset` takes a
constant of which nothing is known. -/
opaque Config.openPassword : Word

/-- DESIGN CHOICE (log 8): the highest legal library location, one less than `LIBRARY_CAPACITY`, which
is OPEN (R6, I7): a constant of which nothing is known. -/
opaque Config.openLastLocation : Half

/-- The instance every default of R6 gives; the OPEN parameters stay open. -/
def Config.standard : Config :=
  { initPassword := Config.openPassword
    libraryCapacity := Config.openLastLocation.toNat + 1
    libraryCapacity_pos := Nat.succ_pos _
    libraryCapacity_le := Config.openLastLocation.isLt }

end Sys2Proof
end

