-- ==== Sys2Proof/Machine/Bytes.lean ====
section
/-! DEFINITION. Byte lists and byte order (00_scope.md R9, 20_memory.md R52, R53). -/

namespace Sys2Proof

/-- `be16(v)`: most significant byte first. -/
def be16 (v : Half) : List Byte := [v.extractLsb' 8 8, v.extractLsb' 0 8]

/-- `be32(v)`: most significant byte first. -/
def be32 (v : Word) : List Byte :=
  [v.extractLsb' 24 8, v.extractLsb' 16 8, v.extractLsb' 8 8, v.extractLsb' 0 8]

/-- `u16(h, l) = h*256 + l`. -/
def u16 (h l : Byte) : Half := h ++ l

/-- `u32(b0, b1, b2, b3)`, `b0` most significant (40_frame_codec.md R103). -/
def u32 (b0 b1 b2 b3 : Byte) : Word := u16 b0 b1 ++ u16 b2 b3

/-- `sum8(xs)`: the integer sum of the bytes. -/
def sum8 (xs : List Byte) : Nat := (xs.map BitVec.toNat).sum

/-- `zext_16(b)`. -/
def zext16 (b : Byte) : Half := b.setWidth 16

end Sys2Proof
end

