-- ==== Sys2Proof/Machine/Codes.lean ====
section
/-! DEFINITION. Result kinds and reason codes (60_exceptions.md R242, R243). -/

namespace Sys2Proof

/-- The result kinds the FPE produces (R242); codes 5 to 7 are never produced. -/
inductive ResultKind where
  | ok | deviceStatus | timeout | formatError | callerMisuse
deriving DecidableEq, Repr

/-- The reasons of FORMAT_ERROR (R243). -/
inductive FormatReason where
  | badStart | lenShort | lenLong | badChecksum | wrongType | shortAck
deriving DecidableEq, Repr

/-- The reasons of CALLER_MISUSE (R243). -/
inductive Misuse where
  | badRequest | badCommand | badSlot | badLocation | payloadTooLong | badFrameType
deriving DecidableEq, Repr

/-- The 3-bit code of a result kind (R242). -/
def ResultKind.code : ResultKind → BitVec 3
  | .ok => 0
  | .deviceStatus => 1
  | .timeout => 2
  | .formatError => 3
  | .callerMisuse => 4

/-- The 4-bit code of a FORMAT_ERROR reason (R243); `PRS_ERR` holds codes 1 to 4. -/
def FormatReason.code : FormatReason → BitVec 4
  | .badStart => 1
  | .lenShort => 2
  | .lenLong => 3
  | .badChecksum => 4
  | .wrongType => 5
  | .shortAck => 6

/-- The 4-bit code of a CALLER_MISUSE reason (R243). -/
def Misuse.code : Misuse → BitVec 4
  | .badRequest => 1
  | .badCommand => 2
  | .badSlot => 3
  | .badLocation => 4
  | .payloadTooLong => 5
  | .badFrameType => 6

end Sys2Proof
end

