-- ==== Sys2Proof/Syntax.lean ====
section
/-! DEFINITION. The instructions of the FPE: one constructor of `Instr` per row of
spec/opcode_table.json, and the forms in which they reach the FPE (00_scope.md R2, 30_encoding.md
R70, R75). -/

namespace Sys2Proof

/-- The thirteen commands of the catalogue (30_encoding.md R77). -/
inductive Command where
  | verifyPassword | captureImage | extractFeatures | createModel | storeModel | loadModel | uploadModel
  | downloadModel | deleteModel | emptyDatabase | fastSearch | getTemplateCount | setPassword
deriving DecidableEq, Repr

/-- The argument fields of a host request (30_encoding.md R75). A field the request does not use is
copied all the same and read by no rule (10_state.md R23). -/
structure Fields where
  a8      : Byte := 0
  a16     : Half := 0
  a32     : Word := 0
  timeout : Word := 0
  ftype   : Byte := 0
  payload : List Byte := []
deriving DecidableEq, Repr

/-- A host request as the request channel carries it: the header byte `HDR` and the argument fields
(30_encoding.md R75). -/
structure Request where
  hdr    : Byte
  fields : Fields
deriving DecidableEq, Repr

/-- A request of the host in one of its two forms. `record` is the form of 30_encoding.md R75. `call` is
PAL's `execute(opcode, args...)`, which the request channel carries as that record (30_encoding.md
section 2; DESIGN CHOICE, log 3). -/
inductive HostLine where
  | record (r : Request)
  | call (opcode : Byte) (f : Fields)
deriving DecidableEq, Repr

/-- One frame of the wire: address, type byte, payload (40_frame_codec.md R103). -/
structure Frame where
  address : Word
  ftype   : Byte
  payload : List Byte
deriving DecidableEq, Repr

/-- The encoded form of an instruction: a request of the host, or the bytes of a frame. -/
inductive Encoded where
  | host (l : HostLine)
  | wire (bytes : List Byte)
deriving DecidableEq, Repr

/-- The instructions. A command carries the operands its rule names and the timeout of the reply. A wire
frame carries its address and payload. A host request carries the selector bits `HDR[5:2]`, which
the accept step copies for every kind (42_command_protocol.md R170), and the argument fields. -/
inductive Instr where
  | verifyPassword (timeout : Word)
  | captureImage (timeout : Word)
  | extractFeatures (slot : Byte) (timeout : Word)
  | createModel (timeout : Word)
  | storeModel (location : Half) (timeout : Word)
  | loadModel (location : Half) (buffer : Byte) (timeout : Word)
  | uploadModel (buffer : Byte) (timeout : Word)
  | downloadModel (buffer : Byte) (timeout : Word)
  | deleteModel (location : Half) (timeout : Word)
  | emptyDatabase (timeout : Word)
  | fastSearch (timeout : Word)
  | getTemplateCount (timeout : Word)
  | setPassword (password : Word) (timeout : Word)
  | frameCommand (address : Word) (payload : List Byte)
  | frameData (address : Word) (payload : List Byte)
  | frameAck (address : Word) (payload : List Byte)
  | frameEndOfData (address : Word) (payload : List Byte)
  | execute (selector : BitVec 4) (f : Fields)
  | sendFrame (selector : BitVec 4) (f : Fields)
  | receiveFrame (selector : BitVec 4) (f : Fields)
deriving DecidableEq, Repr

end Sys2Proof
end

