-- ==== Sys2Proof/Machine/FrameCodec.lean ====
section
/-! DEFINITION. The Frame Codec: Checksum-16, ENCODE and DECODE (40_frame_codec.md R100 to R103). -/

namespace Sys2Proof

/-- First byte of the start marker `0xEF01` (30_encoding.md R70). -/
def startHi : Byte := 0xEF

/-- Second byte of the start marker. -/
def startLo : Byte := 0x01

/-- The frame type codes (30_encoding.md R72). -/
def typeCommand : Byte := 0x01
def typeData : Byte := 0x02
def typeAck : Byte := 0x07
def typeEndOfData : Byte := 0x08

/-- `CS16(lenHi, lenLo, type, payload)`: an additive sum truncated to 16 bits, with no carry fold and no
complement (R100). -/
def cs16 (lenHi lenLo ftype : Byte) (payload : List Byte) : Half :=
  BitVec.ofNat 16 (lenHi.toNat + lenLo.toNat + ftype.toNat + sum8 payload)

/-- The on-wire length `n + 2` (R70). -/
def wireLength (payload : List Byte) : Half := BitVec.ofNat 16 (payload.length + 2)

/-- The checksum of a frame to be sent: over the on-wire length, the type and the payload (R101, R102). -/
def frameChecksum (ftype : Byte) (payload : List Byte) : Half :=
  cs16 ((wireLength payload).extractLsb' 8 8) ((wireLength payload).extractLsb' 0 8) ftype payload

/-- `ENCODE(address, type, payload)` (R102). -/
def encodeFrame (address : Word) (ftype : Byte) (payload : List Byte) : List Byte :=
  [startHi, startLo] ++ be32 address ++ [ftype] ++ be16 (wireLength payload) ++ payload
    ++ be16 (frameChecksum ftype payload)

/-- `DECODE(buf)` (R103), its checks in the rule's order. `rest` is the buffer after `lenLo`, so
`len(buf) = 9 + len(rest)`. -/
def decodeFrame (maxPayload : Nat) : List Byte → Except FormatReason Frame
  | s0 :: s1 :: a0 :: a1 :: a2 :: a3 :: ty :: lenHi :: lenLo :: rest =>
    if 9 + rest.length < 11 then .error .lenShort
    else if s0 ≠ startHi ∨ s1 ≠ startLo then .error .badStart
    else if (u16 lenHi lenLo).toNat < 2 then .error .lenShort
    else if maxPayload < (u16 lenHi lenLo).toNat - 2 then .error .lenLong
    else if 9 + rest.length < (u16 lenHi lenLo).toNat + 9 then .error .lenShort
    else if (u16 lenHi lenLo).toNat + 9 < 9 + rest.length then .error .lenLong
    else
      match rest.drop ((u16 lenHi lenLo).toNat - 2) with
      | [sumHi, sumLo] =>
        if u16 sumHi sumLo ≠ cs16 lenHi lenLo ty (rest.take ((u16 lenHi lenLo).toNat - 2)) then
          .error .badChecksum
        else .ok ⟨u32 a0 a1 a2 a3, ty, rest.take ((u16 lenHi lenLo).toNat - 2)⟩
      | _ => .error .lenShort
  | _ => .error .lenShort

end Sys2Proof
end

