-- ==== Sys2Proof/WellFormed.lean ====
section
/-! DEFINITION. The static checks of an instruction. -/

namespace Sys2Proof

/-- The longest payload the 16-bit on-wire length `n + 2` can state (40_frame_codec.md R102, 00_scope.md
R6). -/
def wirePayloadMax : Nat := 65533

/-- A frame is well formed when its payload's length fits the length field (R102). Every argument value
of a request is legal as an argument; the accept step answers the ones it rejects
(42_command_protocol.md R170). -/
def Instr.wellFormed : Instr → Bool
  | .verifyPassword _ => true
  | .captureImage _ => true
  | .extractFeatures _ _ => true
  | .createModel _ => true
  | .storeModel _ _ => true
  | .loadModel _ _ _ => true
  | .uploadModel _ _ => true
  | .downloadModel _ _ => true
  | .deleteModel _ _ => true
  | .emptyDatabase _ => true
  | .fastSearch _ => true
  | .getTemplateCount _ => true
  | .setPassword _ _ => true
  | .frameCommand _ p => decide (p.length ≤ wirePayloadMax)
  | .frameData _ p => decide (p.length ≤ wirePayloadMax)
  | .frameAck _ p => decide (p.length ≤ wirePayloadMax)
  | .frameEndOfData _ p => decide (p.length ≤ wirePayloadMax)
  | .execute _ _ => true
  | .sendFrame _ _ => true
  | .receiveFrame _ _ => true

end Sys2Proof
end

