-- ==== Sys2Proof/Decode.lean ====
section
/-! DEFINITION. Decoding and encoding of the three formats: the header byte of a host request
(30_encoding.md R75 to R77), the opcode byte of a command (R80, opcode_table.json) and the bytes of a wire
frame (R70, R72). -/

namespace Sys2Proof

/-- Why an encoded form is no instruction. -/
inductive DecodeError where
  /-- `HDR[7:6] ≠ 00` (R76). -/
  | reservedHeaderBits
  /-- Request kind 3 (R76). -/
  | reservedKind
  /-- An opcode byte in no CMD row of the table. -/
  | unknownOpcode
  /-- Bytes that are not exactly one frame (40_frame_codec.md R103). -/
  | badFrame (r : FormatReason)
  /-- A frame whose type is not one of the four (R72). -/
  | unknownFrameType
deriving DecidableEq, Repr

/-- The selector of a command (R77). -/
def Command.selector : Command → BitVec 4
  | .verifyPassword => 0
  | .captureImage => 1
  | .extractFeatures => 2
  | .createModel => 3
  | .storeModel => 4
  | .loadModel => 5
  | .uploadModel => 6
  | .downloadModel => 7
  | .deleteModel => 8
  | .emptyDatabase => 9
  | .fastSearch => 10
  | .getTemplateCount => 11
  | .setPassword => 12

/-- The command of a selector; 13..15 are reserved (R77). -/
def Command.ofSelector (c : BitVec 4) : Option Command :=
  match c.toNat with
  | 0 => some .verifyPassword
  | 1 => some .captureImage
  | 2 => some .extractFeatures
  | 3 => some .createModel
  | 4 => some .storeModel
  | 5 => some .loadModel
  | 6 => some .uploadModel
  | 7 => some .downloadModel
  | 8 => some .deleteModel
  | 9 => some .emptyDatabase
  | 10 => some .fastSearch
  | 11 => some .getTemplateCount
  | 12 => some .setPassword
  | _ => none

/-- The opcode byte of a CMD row of opcode_table.json, the default of R80. -/
def Command.tableOpcode : Command → Byte
  | .verifyPassword => 0x13
  | .captureImage => 0x01
  | .extractFeatures => 0x02
  | .createModel => 0x05
  | .storeModel => 0x06
  | .loadModel => 0x07
  | .uploadModel => 0x08
  | .downloadModel => 0x09
  | .deleteModel => 0x0C
  | .emptyDatabase => 0x0D
  | .fastSearch => 0x1B
  | .getTemplateCount => 0x1D
  | .setPassword => 0x12

/-- The command of an opcode byte of the table. -/
def Command.ofTableOpcode (b : Byte) : Option Command :=
  match b.toNat with
  | 0x13 => some .verifyPassword
  | 0x01 => some .captureImage
  | 0x02 => some .extractFeatures
  | 0x05 => some .createModel
  | 0x06 => some .storeModel
  | 0x07 => some .loadModel
  | 0x08 => some .uploadModel
  | 0x09 => some .downloadModel
  | 0x0C => some .deleteModel
  | 0x0D => some .emptyDatabase
  | 0x1B => some .fastSearch
  | 0x1D => some .getTemplateCount
  | 0x12 => some .setPassword
  | _ => none

/-- `HDR[1:0]`, the request kind `K` (R75). -/
def Request.kind (r : Request) : BitVec 2 := r.hdr.extractLsb' 0 2

/-- `HDR[5:2]`, the command selector `C` (R75). -/
def Request.selector (r : Request) : BitVec 4 := r.hdr.extractLsb' 2 4

/-- `HDR[7:6]`, which must be `00` (R75). -/
def Request.reserved (r : Request) : BitVec 2 := r.hdr.extractLsb' 6 2

/-- The request kinds of R76. -/
def kindExecute : BitVec 2 := 0
def kindSendFrame : BitVec 2 := 1
def kindReceiveFrame : BitVec 2 := 2

/-- The header byte with `HDR[7:6] = 00` (R75). -/
def headerOf (c : BitVec 4) (k : BitVec 2) : Byte := (0#2 ++ c) ++ k

/-- Decode a request record by its header (R75, R76). -/
def decodeRecord (r : Request) : Except DecodeError Instr :=
  if r.reserved ≠ 0 then .error .reservedHeaderBits
  else if r.kind = kindExecute then .ok (.execute r.selector r.fields)
  else if r.kind = kindSendFrame then .ok (.sendFrame r.selector r.fields)
  else if r.kind = kindReceiveFrame then .ok (.receiveFrame r.selector r.fields)
  else .error .reservedKind

/-- The catalogue command with the operands its rule names (R79). -/
def Command.instr (c : Command) (f : Fields) : Instr :=
  match c with
  | .verifyPassword => .verifyPassword f.timeout
  | .captureImage => .captureImage f.timeout
  | .extractFeatures => .extractFeatures f.a8 f.timeout
  | .createModel => .createModel f.timeout
  | .storeModel => .storeModel f.a16 f.timeout
  | .loadModel => .loadModel f.a16 f.a8 f.timeout
  | .uploadModel => .uploadModel f.a8 f.timeout
  | .downloadModel => .downloadModel f.a8 f.timeout
  | .deleteModel => .deleteModel f.a16 f.timeout
  | .emptyDatabase => .emptyDatabase f.timeout
  | .fastSearch => .fastSearch f.timeout
  | .getTemplateCount => .getTemplateCount f.timeout
  | .setPassword => .setPassword f.a32 f.timeout

/-- Decode a call of the catalogue by its opcode byte. -/
def decodeCall (opcode : Byte) (f : Fields) : Except DecodeError Instr :=
  match Command.ofTableOpcode opcode with
  | some c => .ok (c.instr f)
  | none => .error .unknownOpcode

/-- The instruction of a frame, by its type byte (R72). -/
def Frame.instr (fr : Frame) : Except DecodeError Instr :=
  if fr.ftype = typeCommand then .ok (.frameCommand fr.address fr.payload)
  else if fr.ftype = typeData then .ok (.frameData fr.address fr.payload)
  else if fr.ftype = typeAck then .ok (.frameAck fr.address fr.payload)
  else if fr.ftype = typeEndOfData then .ok (.frameEndOfData fr.address fr.payload)
  else .error .unknownFrameType

/-- Decode bytes of the wire that are exactly one frame of the four types. -/
def decodeWire (bs : List Byte) : Except DecodeError Instr :=
  match decodeFrame wirePayloadMax bs with
  | .ok fr => fr.instr
  | .error r => .error (.badFrame r)

/-- The decoder: total on every encoded form, rejecting by name. -/
def decode : Encoded → Except DecodeError Instr
  | .host (.record r) => decodeRecord r
  | .host (.call op f) => decodeCall op f
  | .wire bs => decodeWire bs

/-- The call form of a command. -/
def encodeCall (c : Command) (f : Fields) : Encoded := .host (.call c.tableOpcode f)

/-- The record form of a request (R75). -/
def encodeRecord (k : BitVec 2) (c : BitVec 4) (f : Fields) : Encoded := .host (.record ⟨headerOf c k, f⟩)

/-- The encoder. A field a command does not use is 0 (DESIGN CHOICE, log 2). -/
def encode : Instr → Encoded
  | .verifyPassword t => encodeCall .verifyPassword { timeout := t }
  | .captureImage t => encodeCall .captureImage { timeout := t }
  | .extractFeatures slot t => encodeCall .extractFeatures { a8 := slot, timeout := t }
  | .createModel t => encodeCall .createModel { timeout := t }
  | .storeModel l t => encodeCall .storeModel { a16 := l, timeout := t }
  | .loadModel l b t => encodeCall .loadModel { a8 := b, a16 := l, timeout := t }
  | .uploadModel b t => encodeCall .uploadModel { a8 := b, timeout := t }
  | .downloadModel b t => encodeCall .downloadModel { a8 := b, timeout := t }
  | .deleteModel l t => encodeCall .deleteModel { a16 := l, timeout := t }
  | .emptyDatabase t => encodeCall .emptyDatabase { timeout := t }
  | .fastSearch t => encodeCall .fastSearch { timeout := t }
  | .getTemplateCount t => encodeCall .getTemplateCount { timeout := t }
  | .setPassword w t => encodeCall .setPassword { a32 := w, timeout := t }
  | .frameCommand a p => .wire (encodeFrame a typeCommand p)
  | .frameData a p => .wire (encodeFrame a typeData p)
  | .frameAck a p => .wire (encodeFrame a typeAck p)
  | .frameEndOfData a p => .wire (encodeFrame a typeEndOfData p)
  | .execute c f => encodeRecord kindExecute c f
  | .sendFrame c f => encodeRecord kindSendFrame c f
  | .receiveFrame c f => encodeRecord kindReceiveFrame c f

/-- The host line that a word of opcode_table.json stands for, every other field 0. The table gives its
three formats one and the same 8-bit number, so a word can be in rows of two or three formats. The
first row of the table that admits the word is taken: a CMD row before a HOST_REQ row. The four
FRAME_TYPE words are all opcode bytes of CMD rows too (DESIGN CHOICE, log 1). -/
def tableLine (w : Nat) : HostLine :=
  match Command.ofTableOpcode (BitVec.ofNat 8 w) with
  | some _ => .call (BitVec.ofNat 8 w) {}
  | none => .record ⟨BitVec.ofNat 8 w, {}⟩

/-- The instruction of a word of opcode_table.json. Every row has 8 bits. -/
def decodeTableWord (nbits w : Nat) : Option Instr :=
  if nbits = 8 ∧ w < 256 then (decode (.host (tableLine w))).toOption else none

end Sys2Proof
end

