-- ==== Sys2Proof/Machine/Operands.lean ====
section
/-! DEFINITION. The operands of the catalogue: argument checks and command payloads (30_encoding.md R78 to
R80, 43_device_operations.md R200 to R213). -/

namespace Sys2Proof

/-- `OPCODE[c]` of an instance (R80). -/
def OpcodeTable.get (t : OpcodeTable) : Command → Byte
  | .verifyPassword => t.verifyPassword
  | .captureImage => t.captureImage
  | .extractFeatures => t.extractFeatures
  | .createModel => t.createModel
  | .storeModel => t.storeModel
  | .loadModel => t.loadModel
  | .uploadModel => t.uploadModel
  | .downloadModel => t.downloadModel
  | .deleteModel => t.deleteModel
  | .emptyDatabase => t.emptyDatabase
  | .fastSearch => t.fastSearch
  | .getTemplateCount => t.getTemplateCount
  | .setPassword => t.setPassword

/-- `SLOT_OK(x)` (R200). -/
def slotOk (x : Byte) : Bool := x = 1 || x = 2

/-- `LOC_OK(x)` (R200). -/
def locOk (cfg : Config) (x : Half) : Bool := x.toNat < cfg.libraryCapacity

/-- A slot or buffer operand. -/
def checkSlot (x : Byte) : Except Misuse Unit := if slotOk x then .ok () else .error .badSlot

/-- A library location operand. -/
def checkLocation (cfg : Config) (x : Half) : Except Misuse Unit :=
  if locOk cfg x then .ok () else .error .badLocation

/-- `ARGCHECK(c)` (R200 to R213); LoadModel checks the slot before the location (R206). -/
def argCheck (cfg : Config) (c : Command) (f : Fields) : Except Misuse Unit :=
  match c with
  | .verifyPassword => .ok ()
  | .captureImage => .ok ()
  | .extractFeatures => checkSlot f.a8
  | .createModel => .ok ()
  | .storeModel => checkLocation cfg f.a16
  | .loadModel => do checkSlot f.a8; checkLocation cfg f.a16
  | .uploadModel => checkSlot f.a8
  | .downloadModel => checkSlot f.a8
  | .deleteModel => checkLocation cfg f.a16
  | .emptyDatabase => .ok ()
  | .fastSearch => .ok ()
  | .getTemplateCount => .ok ()
  | .setPassword => .ok ()

/-- The argument bytes of a command after its opcode (R79). `password` is the `PASSWORD` register (R201). -/
def cmdArgs (cfg : Config) (password : Word) (c : Command) (f : Fields) : List Byte :=
  match c with
  | .verifyPassword => be32 password
  | .captureImage => []
  | .extractFeatures => [f.a8]
  | .createModel => []
  | .storeModel => [0x01] ++ be16 f.a16
  | .loadModel => [f.a8] ++ be16 f.a16
  | .uploadModel => [f.a8]
  | .downloadModel => [f.a8]
  | .deleteModel => be16 f.a16 ++ be16 0x0001
  | .emptyDatabase => []
  | .fastSearch => [0x01] ++ be16 0x0000 ++ be16 cfg.searchPageCount
  | .getTemplateCount => []
  | .setPassword => be32 f.a32

/-- `CMD_PAYLOAD(c)`: the opcode byte, then the arguments (R78, R79). -/
def cmdPayload (cfg : Config) (password : Word) (c : Command) (f : Fields) : List Byte :=
  [cfg.opcodes.get c] ++ cmdArgs cfg password c f

/-- The record that carries a command to the request channel (30_encoding.md R77, R82). -/
def Command.request (c : Command) (f : Fields) : Request := ⟨headerOf c.selector kindExecute, f⟩

end Sys2Proof
end

