-- ==== Sys2Proof/Machine/State.lean ====
section
/-! DEFINITION. The state of the FPE and of the agents at its ports (10_state.md R20 to R37), the reasons
a step can stop, and the state after reset (70_reset_and_hazards.md R271). A register that holds no value
(`⊥`, R20) is `none`. -/

namespace Sys2Proof.Machine

/-- `SEQ_STATE` (R22). -/
inductive SeqState where
  | idle | tx | rx
deriving DecidableEq, Repr

/-- `PRS_STATE` (R25). -/
inductive PrsState where
  | off | waitStartHi | waitStartLo | addr | type | lenHi | lenLo | payload | sumHi | sumLo | done | err | timeout
deriving DecidableEq, Repr

/-- A 32-bit register that is written a byte at a time, so that each byte may still hold no value
(41_stream_assembler.md R131, R135; DEDUCED, log 7). `b0` is the most significant byte. -/
structure Bytes4 where
  b0 : Option Byte := none
  b1 : Option Byte := none
  b2 : Option Byte := none
  b3 : Option Byte := none
deriving DecidableEq, Repr

/-- The Frame Parser's registers (R25, R26): the tuple FEED works on (41_stream_assembler.md R156).
`PRS_LEN` is held as its two bytes (DEDUCED, log 7). -/
structure Parser where
  state   : PrsState
  idx     : BitVec 16
  addr    : Bytes4
  ftype   : Option Byte
  lenHi   : Option Byte
  lenLo   : Option Byte
  n       : Option Half
  payload : List (Option Byte)
  acc     : Option Half
  sumHi   : Option Byte
  err     : Option FormatReason
deriving DecidableEq, Repr

/-- The response record (R34); a field the result does not have is `none`. -/
structure Response where
  kind   : ResultKind
  reason : BitVec 4 := 0
  status : Option Byte := none
  fields : Option (List Byte) := none
  ftype  : Option Byte := none
  faddr  : Option Word := none
  v1     : Option Half := none
  v2     : Option Half := none
deriving DecidableEq, Repr

/-- A turn of one agent (00_scope.md R12; DESIGN CHOICE, log 5): `fpe` lets the FPE take its enabled step,
the others are moves of the host (`offer`, `rst`), the transport (`rx`, `txReady`) and the clock
(`tick`). -/
inductive Turn where
  | fpe
  | offer (l : HostLine)
  | rx (bytes : List Byte)
  | txReady (b : Bool)
  | tick
  | rst (cfg : Config)
deriving DecidableEq, Repr

/-- The machine: the FPE's registers under the names of 10_state.md, the instance's parameters, and the
state of the agents at its ports. -/
structure State where
  /-- The parameters of this instance (00_scope.md R6; log 9). -/
  cfg : Config
  /-- `SEQ_STATE` (R22). -/
  seqState : SeqState
  /-- `REQ_KIND` (R23). -/
  reqKind : Option (BitVec 2)
  /-- `REQ_CMD` (R23). -/
  reqCmd : Option (BitVec 4)
  /-- `REQ_TIMEOUT` (R23). -/
  reqTimeout : Option Word
  /-- `REQ_A8` (R23). -/
  reqA8 : Option Byte
  /-- `REQ_A16` (R23). -/
  reqA16 : Option Half
  /-- `REQ_A32` (R23). -/
  reqA32 : Option Word
  /-- `REQ_FTYPE` (R23). -/
  reqFtype : Option Byte
  /-- `TXBUF`, `11 + MAX_PAYLOAD` elements (R24). -/
  txBuf : List (Option Byte)
  /-- `TX_LEN` (R24). -/
  txLen : BitVec 17
  /-- `TX_IDX` (R24). -/
  txIdx : BitVec 17
  /-- `PRS_STATE`, `PRS_IDX` and the capture registers (R25, R26). -/
  prs : Parser
  /-- `PRS_TIMEOUT` (R27). -/
  prsTimeout : Option Word
  /-- `ELAPSED_MS` (R27). -/
  elapsedMs : Word
  /-- `ADDRESS` (R28). -/
  address : Word
  /-- `PASSWORD` (R29). -/
  password : Word
  /-- `MATCH_ID` (R30). -/
  matchId : Option Half
  /-- `CONFIDENCE` (R31). -/
  confidence : Option Half
  /-- `MATCH_VALID` (R30). -/
  matchValid : Bool
  /-- `TEMPLATE_COUNT` (R32). -/
  templateCount : Option Half
  /-- `COUNT_VALID` (R32). -/
  countValid : Bool
  /-- `RXQ`, the transport's receive queue, oldest byte first (R36). -/
  rxq : List Byte
  /-- The transmit stream: every byte written with TxWrite, in order (20_memory.md R50). -/
  txStream : List Byte
  /-- `tx_ready` (R35). -/
  txReady : Bool
  /-- The requests the host has yet to get accepted; the first one is offered (R35). -/
  hostq : List HostLine
  /-- The response records delivered to the host, in order (R34, R35). -/
  responses : List Response
  /-- The turns to come. When it is empty no other agent moves and the FPE takes its enabled step (log 5). -/
  agenda : List Turn
deriving DecidableEq, Repr

/-- A register that can hold no value (R20). -/
inductive RegName where
  | reqKind | reqCmd | reqTimeout | reqA8 | reqA16 | reqA32 | reqFtype | txBuf | prsAddr | prsType | prsLen | prsN
  | prsPayload | prsAcc | prsSumHi | prsErr | prsTimeout
deriving DecidableEq, Repr

/-- Why the machine stops with a fault. -/
inductive Fault where
  /-- A rule reads a register while it holds no value: "a model must make such a read a fault or a refusal, never return a
  number" (R20; 92_eei_decisions.md D26, 93_implementation_defined.md I19). Raised by any meaning whose rule reads the
  register. Safe: the model stops; no state of the invariant gets there. -/
  | noValue (r : RegName)
  /-- `PRS_IDX` is outside the range R25 gives it: above 3 in ADDR, not below `PRS_N` or outside the buffer in PAYLOAD.
  Raised by the byte step. DESIGN CHOICE (log 17): the spec has no rule there. Safe: the model stops; no state of the
  invariant gets there. -/
  | badIndex
deriving DecidableEq, Repr

/-- Why the machine refuses. -/
inductive Refusal where
  /-- An instruction with no meaning yet. Raised by no arm: every instruction has its meaning. Safe. -/
  | notModelled (mnemonic : String)
  /-- The host calls an operation whose opcode byte is in no CMD row of the table. Raised by the step that would
  accept it. Safe: PAL's host has no such operation (log 3). -/
  | unknownOpcode (opcode : Byte)
deriving DecidableEq, Repr

/-- The Frame Parser after reset (R25, R26). -/
def Parser.reset (maxPayload : Nat) : Parser :=
  { state := .off, idx := 0, addr := {}, ftype := none, lenHi := none, lenLo := none, n := none,
    payload := List.replicate maxPayload none, acc := none, sumHi := none, err := none }

/-- The state right after reset of the instance `Config.standard`: every register as R271 says, and the
other agents with nothing pending (DESIGN CHOICE, log 11). -/
def State.reset : State :=
  { cfg := Config.standard
    seqState := .idle
    reqKind := none, reqCmd := none, reqTimeout := none, reqA8 := none, reqA16 := none, reqA32 := none
    reqFtype := none
    txBuf := List.replicate (11 + Config.standard.maxPayload) none
    txLen := 0
    txIdx := 0
    prs := Parser.reset Config.standard.maxPayload
    prsTimeout := none
    elapsedMs := 0
    address := Config.standard.initAddress
    password := Config.standard.initPassword
    matchId := none, confidence := none, matchValid := false
    templateCount := none, countValid := false
    rxq := []
    txStream := []
    txReady := true
    hostq := []
    responses := []
    agenda := [] }

end Sys2Proof.Machine
end

