-- ==== Sys2Proof/Machine/Ops.lean ====
section
/-! DEFINITION. The named operations on registers, buffers and channels: reads that can find no value
(10_state.md R20), copying a request (42_command_protocol.md R170), responding (60_exceptions.md R240,
R241), starting a transmission (R174) or a parse (41_stream_assembler.md R131), reset
(70_reset_and_hazards.md R270). -/

namespace Sys2Proof.Machine

/-- Read a register: a fault while it holds no value, as the spec demands (R20, 93_implementation_defined.md I19). -/
def need {α : Type} (r : RegName) (o : Option α) : Except Fault α :=
  match o with
  | some v => .ok v
  | none => .error (.noValue r)

/-- The outcome of an effect that may read a register without a value. -/
def toOutcome (e : Except Fault State) : Host.Outcome State Fault Refusal :=
  match e with
  | .ok s => .next s
  | .error f => .fault f

/-- Write byte `i` of a byte-wise register, 0 the most significant (R135). -/
def Bytes4.set (w : Bytes4) (i : Nat) (b : Byte) : Bytes4 :=
  match i with
  | 0 => { w with b0 := some b }
  | 1 => { w with b1 := some b }
  | 2 => { w with b2 := some b }
  | 3 => { w with b3 := some b }
  | _ => w

/-- The 32-bit value, once every byte has been written. -/
def Bytes4.word (w : Bytes4) : Option Word :=
  match w with
  | ⟨some b0, some b1, some b2, some b3⟩ => some (u32 b0 b1 b2 b3)
  | _ => none

/-- `PRS_LEN`, once both bytes have been written. -/
def Parser.len (p : Parser) : Option Half :=
  match p.lenHi, p.lenLo with
  | some h, some l => some (u16 h l)
  | _, _ => none

/-- The first `n` elements of a buffer, if every one holds a value; an element beyond the buffer holds none (DESIGN CHOICE,
log 17; no run reads one). -/
def readFirst : Nat → List (Option Byte) → Option (List Byte)
  | 0, _ => some []
  | n + 1, some b :: rest => (readFirst n rest).map (b :: ·)
  | _ + 1, _ => none

/-- Element `i` of a buffer; an element beyond the buffer holds no value (DESIGN CHOICE, log 17; no run reads one). -/
def readAt (buf : List (Option Byte)) (i : Nat) : Option Byte := (buf[i]?).join

/-- Copy every field of the offered request (R170, 20_memory.md R62). -/
def State.latch (r : Request) (s : State) : State :=
  { s with
    reqKind := some r.kind
    reqCmd := some r.selector
    reqTimeout := some r.fields.timeout
    reqA8 := some r.fields.a8
    reqA16 := some r.fields.a16
    reqA32 := some r.fields.a32
    reqFtype := some r.fields.ftype }

/-- Do the request registers hold this request? -/
def State.holds (r : Request) (s : State) : Bool :=
  s.reqKind = some r.kind && s.reqCmd = some r.selector && s.reqTimeout = some r.fields.timeout
    && s.reqA8 = some r.fields.a8 && s.reqA16 = some r.fields.a16 && s.reqA32 = some r.fields.a32
    && s.reqFtype = some r.fields.ftype

/-- `Respond(r)`: the record goes to the host and the Sequencer becomes or stays IDLE (R240). -/
def State.respond (r : Response) (s : State) : State :=
  { s with responses := s.responses ++ [r], seqState := .idle }

/-- The end of a request whose reply was parsed: respond, and the parser returns to OFF (R177, R241). -/
def State.conclude (r : Response) (s : State) : State :=
  { s.respond r with prs := { s.prs with state := .off } }

/-- The record of a rejected request (60_exceptions.md R244). -/
def misuseResponse (m : Misuse) : Response := { kind := .callerMisuse, reason := m.code }

/-- Fill `TXBUF` with an encoded frame and enter TX (42_command_protocol.md R174, R186). -/
def State.startTransmit (frame : List Byte) (s : State) : State :=
  { s with
    txBuf := frame.map some ++ s.txBuf.drop frame.length
    txLen := BitVec.ofNat 17 frame.length
    txIdx := 0
    seqState := .tx }

/-- `PRS_START(t)` with the move to RX (R131, R176, R187). -/
def State.startParse (t : Word) (s : State) : State :=
  { s with
    seqState := .rx
    prs := { Parser.reset s.cfg.maxPayload with state := .waitStartHi }
    prsTimeout := some t
    elapsedMs := 0 }

/-- Bytes join `RXQ` at its end (10_state.md R36). -/
def State.receive (bytes : List Byte) (s : State) : State := { s with rxq := s.rxq ++ bytes }

/-- `TxWrite(b)`: the byte is accepted by the transport (00_scope.md R11). -/
def State.transmit (b : Byte) (s : State) : State := { s with txStream := s.txStream ++ [b] }

/-- The host queues a request behind those it has yet to get accepted (10_state.md R35). -/
def State.offer (l : HostLine) (s : State) : State := { s with hostq := s.hostq ++ [l] }

/-- The transport raises or lowers `tx_ready` (R35). -/
def State.setTxReady (b : Bool) (s : State) : State := { s with txReady := b }

/-- Reset with the parameters of a new instance (70_reset_and_hazards.md R270, R271): every FPE register
takes its reset value; the transport, the host and the clock are untouched. -/
def State.resetFpe (cfg : Config) (s : State) : State :=
  { s with
    cfg := cfg
    seqState := .idle
    reqKind := none, reqCmd := none, reqTimeout := none, reqA8 := none, reqA16 := none, reqA32 := none
    reqFtype := none
    txBuf := List.replicate (11 + cfg.maxPayload) none
    txLen := 0
    txIdx := 0
    prs := Parser.reset cfg.maxPayload
    prsTimeout := none
    elapsedMs := 0
    address := cfg.initAddress
    password := cfg.initPassword
    matchId := none, confidence := none, matchValid := false
    templateCount := none, countValid := false }

end Sys2Proof.Machine
end

