-- ==== Sys2Proof/Machine/FrameParser.lean ====
section
/-! DEFINITION. The Frame Parser: FEED, the byte step, the clock and the timeout (41_stream_assembler.md). -/

namespace Sys2Proof.Machine

/-- The wait states `W` (41_stream_assembler.md, template). -/
def PrsState.isWait : PrsState → Bool
  | .waitStartHi => true
  | .waitStartLo => true
  | .addr => true
  | .type => true
  | .lenHi => true
  | .lenLo => true
  | .payload => true
  | .sumHi => true
  | .sumLo => true
  | .off => false
  | .done => false
  | .err => false
  | .timeout => false

/-- The terminal states (R145). -/
def PrsState.isTerminal : PrsState → Bool
  | .done => true
  | .err => true
  | .timeout => true
  | .off => false
  | .waitStartHi => false
  | .waitStartLo => false
  | .addr => false
  | .type => false
  | .lenHi => false
  | .lenLo => false
  | .payload => false
  | .sumHi => false
  | .sumLo => false

/-- The parse fails for a reason. -/
def Parser.fail (r : FormatReason) (p : Parser) : Parser := { p with state := .err, err := some r }

/-- WAIT_START_HI: every byte but `0xEF` is discarded (R133), so a frame behind any noise without `0xEF` is still found
(R150; Sys2Proof.Machine.feedAll_resynchronises). -/
def feedWaitStartHi (p : Parser) (b : Byte) : Except Fault Parser :=
  .ok (if b = startHi then { p with state := .waitStartLo } else p)

/-- WAIT_START_LO (R134): anything but `0x01` ends the parse, a second `0xEF` too (R151). -/
def feedWaitStartLo (p : Parser) (b : Byte) : Except Fault Parser :=
  .ok (if b = startLo then { p with state := .addr, idx := 0 } else p.fail .badStart)

/-- ADDR (R135). An index above 3, for which the spec has no rule, stops with `badIndex` (DESIGN CHOICE, log 17). -/
def feedAddr (p : Parser) (b : Byte) : Except Fault Parser :=
  if 3 < p.idx.toNat then .error .badIndex
  else if p.idx.toNat < 3 then .ok { p with addr := p.addr.set p.idx.toNat b, idx := p.idx + 1 }
  else .ok { p with addr := p.addr.set p.idx.toNat b, state := .type }

/-- TYPE: all 256 values are accepted (R136). -/
def feedType (p : Parser) (b : Byte) : Except Fault Parser :=
  .ok { p with ftype := some b, acc := some (zext16 b), state := .lenHi }

/-- LEN_HI (R137). -/
def feedLenHi (p : Parser) (b : Byte) : Except Fault Parser := do
  let acc ← need .prsAcc p.acc
  .ok { p with lenHi := some b, acc := some (acc + zext16 b), state := .lenLo }

/-- LEN_LO, with the length check (R138). -/
def feedLenLo (maxPayload : Nat) (p : Parser) (b : Byte) : Except Fault Parser := do
  let h ← need .prsLen p.lenHi
  let acc ← need .prsAcc p.acc
  let q := { p with lenLo := some b, acc := some (acc + zext16 b) }
  if (u16 h b).toNat < 2 then .ok (q.fail .lenShort)
  else if maxPayload < (u16 h b).toNat - 2 then .ok (q.fail .lenLong)
  else .ok { q with n := some (u16 h b - 2), idx := 0, state := if (u16 h b).toNat = 2 then .sumHi else .payload }

/-- PAYLOAD (R139). The rule is for `PRS_IDX < PRS_N`, and the element it writes lies in the buffer. Any other index, for
which the spec has no rule, stops with `badIndex` (DESIGN CHOICE, log 17). -/
def feedPayload (p : Parser) (b : Byte) : Except Fault Parser := do
  let n ← need .prsN p.n
  let acc ← need .prsAcc p.acc
  if n.toNat ≤ p.idx.toNat ∨ p.payload.length ≤ p.idx.toNat then .error .badIndex
  else
    let q := { p with payload := p.payload.set p.idx.toNat (some b), acc := some (acc + zext16 b) }
    if p.idx.toNat + 1 = n.toNat then .ok { q with state := .sumHi } else .ok { q with idx := p.idx + 1 }

/-- SUM_HI: the checksum bytes are kept out of the payload (R140). -/
def feedSumHi (p : Parser) (b : Byte) : Except Fault Parser := .ok { p with sumHi := some b, state := .sumLo }

/-- SUM_LO: the frame completes when the received and the running checksum agree (R141). -/
def feedSumLo (p : Parser) (b : Byte) : Except Fault Parser := do
  let h ← need .prsSumHi p.sumHi
  let acc ← need .prsAcc p.acc
  .ok (if u16 h b = acc then { p with state := .done } else p.fail .badChecksum)

/-- `FEED(s, b)` (R156). It is applied in wait states only (R130); elsewhere it changes nothing. -/
def feed (maxPayload : Nat) (p : Parser) (b : Byte) : Except Fault Parser :=
  match p.state with
  | .waitStartHi => feedWaitStartHi p b
  | .waitStartLo => feedWaitStartLo p b
  | .addr => feedAddr p b
  | .type => feedType p b
  | .lenHi => feedLenHi p b
  | .lenLo => feedLenLo maxPayload p b
  | .payload => feedPayload p b
  | .sumHi => feedSumHi p b
  | .sumLo => feedSumLo p b
  | .off => .ok p
  | .done => .ok p
  | .err => .ok p
  | .timeout => .ok p

/-- Feeding a byte list: FEED byte after byte up to the first outcome that is not Pending (R156). The
second part is what is left unread. -/
def feedAll (maxPayload : Nat) : Parser → List Byte → Except Fault (Parser × List Byte)
  | p, [] => .ok (p, [])
  | p, b :: rest =>
    if p.state.isWait then
      match feed maxPayload p b with
      | .ok q => feedAll maxPayload q rest
      | .error f => .error f
    else .ok (p, b :: rest)

/-- The frame of a completed parse: `Frame{PRS_ADDR, PRS_TYPE, PRS_PAYLOAD[0 .. PRS_N)}` (R141). -/
def Parser.frame (p : Parser) : Except Fault Frame := do
  let address ← need .prsAddr p.addr.word
  let ftype ← need .prsType p.ftype
  let n ← need .prsN p.n
  let payload ← need .prsPayload (readFirst n.toNat p.payload)
  .ok ⟨address, ftype, payload⟩

/-- The outcome FEED reports (R156). -/
inductive FeedOutcome where
  | pending
  | complete (f : Frame)
  | error (r : FormatReason)
deriving DecidableEq, Repr

/-- Complete in DONE, Error in ERR, Pending otherwise (R156). -/
def Parser.outcome (p : Parser) : Except Fault FeedOutcome :=
  if p.state = .done then p.frame.map .complete
  else if p.state = .err then (need .prsErr p.err).map .error
  else .ok .pending

/-- The parser is active exactly when `SEQ_STATE = RX` and `PRS_STATE ∈ W` (R130). -/
def State.parserActive (s : State) : Bool := s.seqState = .rx && s.prs.state.isWait

/-- The byte step on a byte that `RxRead` has removed, leaving `rest` (R132). -/
def byteStep (b : Byte) (rest : List Byte) (s : State) : Except Fault State := do
  let p ← feed s.cfg.maxPayload s.prs b
  .ok { s with prs := p, rxq := rest }

/-- The Timeout step is enabled: active, nothing to read, `ELAPSED_MS ≥ PRS_TIMEOUT` (R143). -/
def timeoutEnabled (s : State) : Except Fault Bool :=
  if s.parserActive && s.rxq.isEmpty then do
    let t ← need .prsTimeout s.prsTimeout
    .ok (decide (t.toNat ≤ s.elapsedMs.toNat))
  else .ok false

/-- The Timeout step (R143). -/
def timeoutStep (s : State) : State := { s with prs := { s.prs with state := .timeout } }

/-- The last value `ELAPSED_MS` may have while the Timeout step waits: `min(PRS_TIMEOUT + POLL_MS,
0xFFFFFFFF)` (R144). -/
def pollLimit (cfg : Config) (t : Word) : Nat := min (t.toNat + cfg.pollMs) 0xFFFFFFFF

/-- A tick is not enabled once the Timeout step is enabled and the poll limit is reached (R144). -/
def tickEnabled (s : State) : Except Fault Bool := do
  if ← timeoutEnabled s then
    let t ← need .prsTimeout s.prsTimeout
    .ok (decide (s.elapsedMs.toNat < pollLimit s.cfg t))
  else .ok true

/-- The tick step: `ELAPSED_MS` counts, saturating, while the parser is active (R142). -/
def State.tick (s : State) : State :=
  if s.parserActive then
    { s with elapsedMs := if s.elapsedMs = 0xFFFFFFFF then s.elapsedMs else s.elapsedMs + 1 }
  else s

end Sys2Proof.Machine
end

