-- ==== Sys2Proof/Machine/Results.lean ====
section
/-! DEFINITION. `RESULT(c, fs)`: what an ack with status `0x00` gives (43_device_operations.md R200, R211,
R212). -/

namespace Sys2Proof.Machine

/-- The default result (R200). -/
def okResponse (fs : List Byte) (faddr : Word) : Response :=
  { kind := .ok, status := some 0x00, fields := some fs, faddr := some faddr }

/-- An ack too short for its status or its result shape (42_command_protocol.md R180, R211, R212). -/
def shortAckResponse (faddr : Word) : Response :=
  { kind := .formatError, reason := FormatReason.shortAck.code, faddr := some faddr }

/-- FastSearch: the match registers are written on the OK path only (R211). -/
def resultFastSearch (fs : List Byte) (faddr : Word) (s : State) : State :=
  match fs with
  | i1 :: i0 :: c1 :: c0 :: _ =>
    { s with matchId := some (u16 i1 i0), confidence := some (u16 c1 c0), matchValid := true }.conclude
      { okResponse fs faddr with v1 := some (u16 i1 i0), v2 := some (u16 c1 c0) }
  | _ => s.conclude (shortAckResponse faddr)

/-- GetTemplateCount: the count register is written on the OK path only (R212). -/
def resultGetTemplateCount (fs : List Byte) (faddr : Word) (s : State) : State :=
  match fs with
  | c1 :: c0 :: _ =>
    { s with templateCount := some (u16 c1 c0), countValid := true }.conclude
      { okResponse fs faddr with v1 := some (u16 c1 c0) }
  | _ => s.conclude (shortAckResponse faddr)

/-- `RESULT(REQ_CMD, fs)`, with the response and the parser back in OFF (42_command_protocol.md R177,
R181). Every selector without a rule of its own has the default of R200 (log 18). -/
def resultOf (c : BitVec 4) (fs : List Byte) (faddr : Word) (s : State) : State :=
  if c = Command.fastSearch.selector then resultFastSearch fs faddr s
  else if c = Command.getTemplateCount.selector then resultGetTemplateCount fs faddr s
  else s.conclude (okResponse fs faddr)

end Sys2Proof.Machine
end

