-- ==== Sys2Proof/Machine/Sequencer.lean ====
section
/-! DEFINITION. The Command Sequencer: accept, transmit, end of transmit and finish
(42_command_protocol.md R170 to R188). -/

namespace Sys2Proof.Machine

/-- What START does with an accepted request: send a frame (R174, R186), or collect one (R187). -/
inductive Plan where
  | send (ftype : Byte) (payload : List Byte)
  | collect
deriving DecidableEq, Repr

/-- The payload bound (R173, R186). -/
def checkLength (cfg : Config) (ftype : Byte) (payload : List Byte) : Except Misuse Plan :=
  if cfg.maxPayload < payload.length then .error .payloadTooLong else .ok (.send ftype payload)

/-- CHECK for EXECUTE: selector, arguments, length (R173). -/
def checkExecute (cfg : Config) (password : Word) (r : Request) : Except Misuse Plan :=
  match Command.ofSelector r.selector with
  | none => .error .badCommand
  | some c => do
    argCheck cfg c r.fields
    checkLength cfg typeCommand (cmdPayload cfg password c r.fields)

/-- The four frame types SEND_FRAME sends (R186). -/
def sendableType (t : Byte) : Bool := t = typeCommand || t = typeData || t = typeAck || t = typeEndOfData

/-- CHECK for SEND_FRAME: type, length (R186). -/
def checkSendFrame (cfg : Config) (r : Request) : Except Misuse Plan :=
  if sendableType r.fields.ftype then checkLength cfg r.fields.ftype r.fields.payload else .error .badFrameType

/-- CHECK, in the order of R172, R173, R186, R187 (60_exceptions.md R245). -/
def check (cfg : Config) (password : Word) (r : Request) : Except Misuse Plan :=
  if r.reserved ≠ 0 then .error .badRequest
  else if r.kind = kindExecute then checkExecute cfg password r
  else if r.kind = kindSendFrame then checkSendFrame cfg r
  else if r.kind = kindReceiveFrame then .ok .collect
  else .error .badRequest

/-- START (R174, R186, R187): the frame carries `ADDRESS`; a parse gets the request's timeout. -/
def start (plan : Plan) (timeout : Word) (s : State) : State :=
  match plan with
  | .send ftype payload => s.startTransmit (encodeFrame s.address ftype payload)
  | .collect => s.startParse timeout

/-- The accept step: copy the fields, check, and reject or start (R170). -/
def accept (r : Request) (s : State) : State :=
  match check s.cfg s.password r with
  | .error m => (s.latch r).respond (misuseResponse m)
  | .ok plan => start plan r.fields.timeout (s.latch r)

/-- The transmit step (R175). -/
def transmitStep (s : State) : Except Fault State := do
  let b ← need .txBuf (readAt s.txBuf s.txIdx.toNat)
  .ok { s.transmit b with txIdx := s.txIdx + 1 }

/-- The end-of-transmit step (R176). A request of another kind has no frame to send and no effect here. -/
def endOfTransmit (s : State) : Except Fault State := do
  let k ← need .reqKind s.reqKind
  if k = kindExecute then do
    let t ← need .reqTimeout s.reqTimeout
    .ok (s.startParse t)
  else if k = kindSendFrame then .ok (s.respond { kind := .ok })
  else .ok s

/-- The steps of TX (R175, R176): none is enabled while the transport is not ready (R279). -/
def txPhase (s : State) : Except Fault State :=
  if s.txIdx.toNat < s.txLen.toNat then if s.txReady then transmitStep s else .ok s
  else if s.txIdx = s.txLen then endOfTransmit s
  else .ok s

/-- The record of a parse that failed (R178, R187). -/
def formatErrorResponse (r : FormatReason) : Response := { kind := .formatError, reason := r.code }

/-- The record of a reply that is no acknowledgement (R179). -/
def wrongTypeResponse (ftype : Byte) (faddr : Word) : Response :=
  { kind := .formatError, reason := FormatReason.wrongType.code, ftype := some ftype, faddr := some faddr }

/-- The record of a nonzero status (R181). -/
def deviceStatusResponse (status : Byte) (fs : List Byte) (faddr : Word) : Response :=
  { kind := .deviceStatus, status := some status, fields := some fs, faddr := some faddr }

/-- The record of a frame collected by RECEIVE_FRAME (R187). -/
def receivedResponse (fr : Frame) : Response :=
  { kind := .ok, fields := some fr.payload, ftype := some fr.ftype, faddr := some fr.address }

/-- EXECUTE with an acknowledgement: empty ack, status, result shape, in this order (R180, R181). `REQ_CMD` is read for
status `0x00` only. -/
def finishAck (payload : List Byte) (faddr : Word) (s : State) : Except Fault State :=
  match payload with
  | [] => .ok (s.conclude (shortAckResponse faddr))
  | status :: fs =>
    if status ≠ 0x00 then .ok (s.conclude (deviceStatusResponse status fs faddr))
    else do
      let c ← need .reqCmd s.reqCmd
      .ok (resultOf c fs faddr s)

/-- EXECUTE with a complete frame: the type first (R179), then the acknowledgement (60_exceptions.md R245). Each register is
read only where the rule reads it: a frame of a wrong type is dropped with its payload unread. -/
def finishExecute (s : State) : Except Fault State := do
  let ty ← need .prsType s.prs.ftype
  let faddr ← need .prsAddr s.prs.addr.word
  if ty ≠ typeAck then .ok (s.conclude (wrongTypeResponse ty faddr))
  else do
    let n ← need .prsN s.prs.n
    let payload ← need .prsPayload (readFirst n.toNat s.prs.payload)
    finishAck payload faddr s

/-- A complete frame: for EXECUTE by R179 to R181, for RECEIVE_FRAME by R187. -/
def finishFrame (s : State) : Except Fault State := do
  let k ← need .reqKind s.reqKind
  if k = kindExecute then finishExecute s
  else do
    let fr ← s.prs.frame
    .ok (s.conclude (receivedResponse fr))

/-- The finish step (R177): TIMEOUT and ERR give the same record for both kinds (R178, R187). -/
def finish (s : State) : Except Fault State :=
  match s.prs.state with
  | .timeout => .ok (s.conclude { kind := .timeout })
  | .err => do
    let r ← need .prsErr s.prs.err
    .ok (s.conclude (formatErrorResponse r))
  | .done => finishFrame s
  | .off => .ok s
  | .waitStartHi => .ok s
  | .waitStartLo => .ok s
  | .addr => .ok s
  | .type => .ok s
  | .lenHi => .ok s
  | .lenLo => .ok s
  | .payload => .ok s
  | .sumHi => .ok s
  | .sumLo => .ok s

/-- The wait of an active parser: a byte is read if there is one, else the timeout if it is due
(41_stream_assembler.md R132, R143, 60_exceptions.md R245). -/
def waitPhase (s : State) : Except Fault State :=
  match s.rxq with
  | b :: rest => byteStep b rest s
  | [] => do
    let due ← timeoutEnabled s
    .ok (if due then timeoutStep s else s)

/-- The steps of RX (R132, R143, R177). In OFF the parser takes no step (R130). -/
def rxPhase (s : State) : Except Fault State := if s.prs.state.isWait then waitPhase s else finish s

/-- The FPE's step on the request in progress. Where no step is enabled the state stays (log 13). -/
def continueRequest (s : State) : Except Fault State :=
  match s.seqState with
  | .idle => .ok s
  | .tx => txPhase s
  | .rx => rxPhase s

/-- The step a request takes in the state it is given (log 12): the accept step when IDLE (R170), the next
step of the request in progress when the request registers hold it, and none while another request
is in progress, for then it is not taken and the host holds it (R170). -/
def runRequest (r : Request) (s : State) : Host.Outcome State Fault Refusal :=
  if s.seqState = .idle then .next (accept r s)
  else if s.holds r then toOutcome (continueRequest s)
  else .next s

end Sys2Proof.Machine
end

