-- ==== Sys2Proof/Machine/Catalogue.lean ====
section
/-! DEFINITION. The meanings of the thirteen catalogue commands (43_device_operations.md). Each is EXECUTE
with the command's selector and operands; its ARGCHECK and CMD_PAYLOAD are in Operands.lean, its RESULT
in Results.lean. -/

namespace Sys2Proof.Machine

/-- VerifyPassword (R201): the password sent is the `PASSWORD` register. -/
def execVerifyPassword (timeout : Word) (s : State) : Host.Outcome State Fault Refusal :=
  runRequest (Command.verifyPassword.request { timeout := timeout }) s

/-- CaptureImage (R202). -/
def execCaptureImage (timeout : Word) (s : State) : Host.Outcome State Fault Refusal :=
  runRequest (Command.captureImage.request { timeout := timeout }) s

/-- ExtractFeatures(slot) (R203). -/
def execExtractFeatures (slot : Byte) (timeout : Word) (s : State) : Host.Outcome State Fault Refusal :=
  runRequest (Command.extractFeatures.request { a8 := slot, timeout := timeout }) s

/-- CreateModel (R204). -/
def execCreateModel (timeout : Word) (s : State) : Host.Outcome State Fault Refusal :=
  runRequest (Command.createModel.request { timeout := timeout }) s

/-- StoreModel(location) (R205). -/
def execStoreModel (location : Half) (timeout : Word) (s : State) : Host.Outcome State Fault Refusal :=
  runRequest (Command.storeModel.request { a16 := location, timeout := timeout }) s

/-- LoadModel(location, buffer) (R206). -/
def execLoadModel (location : Half) (buffer : Byte) (timeout : Word) (s : State) : Host.Outcome State Fault Refusal :=
  runRequest (Command.loadModel.request { a8 := buffer, a16 := location, timeout := timeout }) s

/-- UploadModel(buffer) (R207). -/
def execUploadModel (buffer : Byte) (timeout : Word) (s : State) : Host.Outcome State Fault Refusal :=
  runRequest (Command.uploadModel.request { a8 := buffer, timeout := timeout }) s

/-- DownloadModel(buffer) (R208). -/
def execDownloadModel (buffer : Byte) (timeout : Word) (s : State) : Host.Outcome State Fault Refusal :=
  runRequest (Command.downloadModel.request { a8 := buffer, timeout := timeout }) s

/-- DeleteModel(location) (R209). -/
def execDeleteModel (location : Half) (timeout : Word) (s : State) : Host.Outcome State Fault Refusal :=
  runRequest (Command.deleteModel.request { a16 := location, timeout := timeout }) s

/-- EmptyDatabase (R210). -/
def execEmptyDatabase (timeout : Word) (s : State) : Host.Outcome State Fault Refusal :=
  runRequest (Command.emptyDatabase.request { timeout := timeout }) s

/-- FastSearch (R211). -/
def execFastSearch (timeout : Word) (s : State) : Host.Outcome State Fault Refusal :=
  runRequest (Command.fastSearch.request { timeout := timeout }) s

/-- GetTemplateCount (R212). -/
def execGetTemplateCount (timeout : Word) (s : State) : Host.Outcome State Fault Refusal :=
  runRequest (Command.getTemplateCount.request { timeout := timeout }) s

/-- SetPassword(password) (R213): `PASSWORD` is not changed. -/
def execSetPassword (password : Word) (timeout : Word) (s : State) : Host.Outcome State Fault Refusal :=
  runRequest (Command.setPassword.request { a32 := password, timeout := timeout }) s

end Sys2Proof.Machine
end

