-- ==== Sys2Proof/Machine/HostRequests.lean ====
section
/-! DEFINITION. The meanings of the three host requests (42_command_protocol.md R186 to R188). -/

namespace Sys2Proof.Machine

/-- EXECUTE (R188): any selector; 13..15 are rejected with BAD_COMMAND (R173). -/
def execExecute (selector : BitVec 4) (f : Fields) (s : State) : Host.Outcome State Fault Refusal :=
  runRequest ⟨headerOf selector kindExecute, f⟩ s

/-- SEND_FRAME (R186). -/
def execSendFrame (selector : BitVec 4) (f : Fields) (s : State) : Host.Outcome State Fault Refusal :=
  runRequest ⟨headerOf selector kindSendFrame, f⟩ s

/-- RECEIVE_FRAME (R187). -/
def execReceiveFrame (selector : BitVec 4) (f : Fields) (s : State) : Host.Outcome State Fault Refusal :=
  runRequest ⟨headerOf selector kindReceiveFrame, f⟩ s

end Sys2Proof.Machine
end

