-- ==== Sys2Proof/Machine/WireFrames.lean ====
section
/-! DEFINITION. The meanings of the four wire frames (30_encoding.md R70, R72): the frame's bytes join the
receive stream (10_state.md R36), where the parser's byte steps read them (41_stream_assembler.md) and the
finish step treats the frame by its type (42_command_protocol.md R179, R187). Log 4. -/

namespace Sys2Proof.Machine

/-- A Command frame, type `0x01`, arrives (an echo of the FPE's own command, for example; R179). -/
def execFrameCommand (address : Word) (payload : List Byte) (s : State) : Host.Outcome State Fault Refusal :=
  .next (s.receive (encodeFrame address typeCommand payload))

/-- A Data frame, type `0x02`, arrives (R207). -/
def execFrameData (address : Word) (payload : List Byte) (s : State) : Host.Outcome State Fault Refusal :=
  .next (s.receive (encodeFrame address typeData payload))

/-- An Acknowledgement frame, type `0x07`, arrives (R13, R181). -/
def execFrameAck (address : Word) (payload : List Byte) (s : State) : Host.Outcome State Fault Refusal :=
  .next (s.receive (encodeFrame address typeAck payload))

/-- An EndOfData frame, type `0x08`, arrives (R207). -/
def execFrameEndOfData (address : Word) (payload : List Byte) (s : State) : Host.Outcome State Fault Refusal :=
  .next (s.receive (encodeFrame address typeEndOfData payload))

end Sys2Proof.Machine
end

