-- ==== Sys2Proof/Machine/Dispatch.lean ====
section
/-! DEFINITION. exec: one arm per instruction. -/

namespace Sys2Proof.Machine

def exec (i : Instr) (s : State) : Host.Outcome State Fault Refusal :=
  match i with
  | .verifyPassword timeout => Sys2Proof.Machine.execVerifyPassword timeout s
  | .captureImage timeout => Sys2Proof.Machine.execCaptureImage timeout s
  | .extractFeatures slot timeout => Sys2Proof.Machine.execExtractFeatures slot timeout s
  | .createModel timeout => Sys2Proof.Machine.execCreateModel timeout s
  | .storeModel location timeout => Sys2Proof.Machine.execStoreModel location timeout s
  | .loadModel location buffer timeout => Sys2Proof.Machine.execLoadModel location buffer timeout s
  | .uploadModel buffer timeout => Sys2Proof.Machine.execUploadModel buffer timeout s
  | .downloadModel buffer timeout => Sys2Proof.Machine.execDownloadModel buffer timeout s
  | .deleteModel location timeout => Sys2Proof.Machine.execDeleteModel location timeout s
  | .emptyDatabase timeout => Sys2Proof.Machine.execEmptyDatabase timeout s
  | .fastSearch timeout => Sys2Proof.Machine.execFastSearch timeout s
  | .getTemplateCount timeout => Sys2Proof.Machine.execGetTemplateCount timeout s
  | .setPassword password timeout => Sys2Proof.Machine.execSetPassword password timeout s
  | .frameCommand address payload => Sys2Proof.Machine.execFrameCommand address payload s
  | .frameData address payload => Sys2Proof.Machine.execFrameData address payload s
  | .frameAck address payload => Sys2Proof.Machine.execFrameAck address payload s
  | .frameEndOfData address payload => Sys2Proof.Machine.execFrameEndOfData address payload s
  | .execute selector f => Sys2Proof.Machine.execExecute selector f s
  | .sendFrame selector f => Sys2Proof.Machine.execSendFrame selector f s
  | .receiveFrame selector f => Sys2Proof.Machine.execReceiveFrame selector f s

end Sys2Proof.Machine
end

