-- ==== Sys2Proof/Machine/Step.lean ====
section
/-! DEFINITION. One step of the machine: the next turn of the agenda (00_scope.md R12; log 5). -/

namespace Sys2Proof.Machine

/-- The accept step on the offered line, already taken from the channel (42_command_protocol.md R170). A
record whose header is reserved is accepted and rejected by CHECK (R172). -/
def acceptLine (l : HostLine) (s : State) : Host.Outcome State Fault Refusal :=
  match decode (.host l) with
  | .ok i => exec i s
  | .error _ =>
    match l with
    | .record r => .next (accept r s)
    | .call opcode _ => .refused (.unknownOpcode opcode)

/-- The FPE's enabled step: accept when IDLE and a request is offered, else the next step of the request in
progress. With no step enabled the state stays (log 13). -/
def fpeStep (s : State) : Host.Outcome State Fault Refusal :=
  match s.seqState with
  | .idle =>
    match s.hostq with
    | [] => .next s
    | l :: rest => acceptLine l { s with hostq := rest }
  | .tx => toOutcome (continueRequest s)
  | .rx => toOutcome (continueRequest s)

/-- Bytes of the peer join `RXQ` (10_state.md R36). Bytes that are one frame of the four types are that
frame's instruction; any other bytes join as they are. -/
def arrive (bytes : List Byte) (s : State) : Host.Outcome State Fault Refusal :=
  match decode (.wire bytes) with
  | .ok i => exec i s
  | .error _ => .next (s.receive bytes)

/-- A tick that is not enabled (41_stream_assembler.md R144) stays at the head of the agenda and the FPE takes
its step, which is the Timeout step. -/
def tickTurn (rest : List Turn) (s : State) : Host.Outcome State Fault Refusal :=
  match tickEnabled s with
  | .ok true => .next ({ s with agenda := rest }).tick
  | .ok false => fpeStep s
  | .error f => .fault f

/-- One step. Reset has priority in its turn: no FPE step is taken beside it (70_reset_and_hazards.md R270). -/
def step (s : State) : Host.Outcome State Fault Refusal :=
  match s.agenda with
  | [] => fpeStep s
  | .fpe :: rest => fpeStep { s with agenda := rest }
  | .offer l :: rest => .next ({ s with agenda := rest }.offer l)
  | .rx bytes :: rest => arrive bytes { s with agenda := rest }
  | .txReady b :: rest => .next ({ s with agenda := rest }.setTxReady b)
  | .tick :: rest => tickTurn rest s
  | .rst cfg :: rest => .next ({ s with agenda := rest }.resetFpe cfg)

/-- The state in which the next step accepts the request that a word of opcode_table.json stands for: the
host offers it first, the Sequencer is IDLE and the turn is the FPE's (log 16). -/
def State.withFetchWord (s : State) (nbits w : Nat) : State :=
  { s with seqState := .idle, hostq := tableLine (w % 2 ^ nbits) :: s.hostq, agenda := .fpe :: s.agenda }

end Sys2Proof.Machine
end

