-- ==== Sys2Proof/Machine/Flags.lean ====
section
/-! DEFINITION. The status outputs, the flags of the block (10_state.md R33), and the result class of
42_command_protocol.md R185. -/

namespace Sys2Proof.Machine

/-- `req_ready = (SEQ_STATE = IDLE)` (R33). -/
def State.reqReady (s : State) : Bool := s.seqState = .idle

/-- `busy = not req_ready` (R33). -/
def State.busy (s : State) : Bool := !s.reqReady

/-- What the host can read at any time (R33). An output that carries no value is `none`. -/
structure StatusOutputs where
  reqReady      : Bool
  busy          : Bool
  address       : Word
  password      : Word
  matchValid    : Bool
  countValid    : Bool
  matchId       : Option Half
  confidence    : Option Half
  templateCount : Option Half
deriving DecidableEq, Repr

/-- The status outputs of a state: the session results only while their validity bit is set (R33). -/
def State.statusOutputs (s : State) : StatusOutputs :=
  { reqReady := s.reqReady
    busy := s.busy
    address := s.address
    password := s.password
    matchValid := s.matchValid
    countValid := s.countValid
    matchId := if s.matchValid then s.matchId else none
    confidence := if s.matchValid then s.confidence else none
    templateCount := if s.countValid then s.templateCount else none }

/-- PacketReceiveError, the class of TIMEOUT and FORMAT_ERROR results (R185). -/
def Response.isPacketReceiveError (r : Response) : Bool := r.kind = .timeout || r.kind = .formatError

end Sys2Proof.Machine
end

