-- ==== Sys2Proof/Safety.lean ====
section
/-! DEFINITION. What a safe state is: the invariant of the machine, in the terms the statements use. -/

namespace Sys2Proof.Machine

/-- While `PRS_IDX` bytes of the address have been read, those bytes hold values (41_stream_assembler.md
R135). -/
def Bytes4.written (w : Bytes4) : Nat → Prop
  | 0 => True
  | 1 => w.b0.isSome
  | 2 => w.b0.isSome ∧ w.b1.isSome
  | 3 => w.b0.isSome ∧ w.b1.isSome ∧ w.b2.isSome
  | _ => False

/-- Address and type have been captured, and `PRS_ACC` counts the type (R135, R136). -/
def Parser.headed (p : Parser) : Prop :=
  p.addr.word.isSome ∧ ∃ ty, p.ftype = some ty ∧ p.acc = some (zext16 ty)

/-- `PRS_LEN` and `PRS_N` hold a legal length, the first `k` payload bytes hold values, and `PRS_ACC` is the
checksum of the covered bytes read so far (R138, R139, R149). -/
def Parser.captured (maxPayload : Nat) (p : Parser) (k : Nat) : Prop :=
  p.addr.word.isSome ∧ ∃ ty h l xs,
    p.ftype = some ty ∧ p.lenHi = some h ∧ p.lenLo = some l ∧ p.n = some (u16 h l - 2)
    ∧ 2 ≤ (u16 h l).toNat ∧ (u16 h l).toNat ≤ maxPayload + 2 ∧ k ≤ (u16 h l).toNat - 2
    ∧ readFirst k p.payload = some xs ∧ p.acc = some (cs16 h l ty xs)

/-- What each parser state says of the capture registers (R25, R26, R133 to R141). -/
def Parser.stateOk (maxPayload : Nat) (p : Parser) : Prop :=
  match p.state with
  | .off => True
  | .waitStartHi => True
  | .waitStartLo => True
  | .addr => p.idx.toNat ≤ 3 ∧ p.addr.written p.idx.toNat
  | .type => p.addr.word.isSome
  | .lenHi => p.headed
  | .lenLo => p.addr.word.isSome ∧ ∃ ty h,
      p.ftype = some ty ∧ p.lenHi = some h ∧ p.acc = some (zext16 ty + zext16 h)
  | .payload => p.captured maxPayload p.idx.toNat ∧ ∃ n, p.n = some n ∧ p.idx.toNat < n.toNat
  | .sumHi => ∃ n, p.n = some n ∧ p.captured maxPayload n.toNat
  | .sumLo => p.sumHi.isSome ∧ ∃ n, p.n = some n ∧ p.captured maxPayload n.toNat
  | .done => ∃ n, p.n = some n ∧ p.captured maxPayload n.toNat
  | .err => p.err = some .badStart ∨ p.err = some .lenShort ∨ p.err = some .lenLong ∨ p.err = some .badChecksum
  | .timeout => True

/-- The parser's part of the invariant: the payload buffer has its capacity and the state is right. -/
def Parser.wf (maxPayload : Nat) (p : Parser) : Prop := p.payload.length = maxPayload ∧ p.stateOk maxPayload

/-- `TXBUF[0 .. TX_LEN)` is this frame and `TX_IDX` lies in it (10_state.md R24). -/
def State.txHolds (s : State) (frame : List Byte) : Prop :=
  s.txBuf.take frame.length = frame.map some ∧ s.txLen.toNat = frame.length ∧ s.txIdx.toNat ≤ s.txLen.toNat

/-- What the phase of an accepted request says (10_state.md R22, R24, R27, R130): in TX the buffer holds the
request's frame; in RX the request is one that collects a frame. -/
def State.phaseOk (s : State) (r : Request) (plan : Plan) : Prop :=
  match s.seqState with
  | .idle => True
  | .tx => ∃ ty p, plan = .send ty p ∧ s.txHolds (encodeFrame s.address ty p)
  | .rx => r.kind ≠ kindSendFrame

/-- The invariant of the machine. -/
structure State.Inv (s : State) : Prop where
  /-- The parser's registers agree with `PRS_STATE` (R25, R26, R149). -/
  parser : s.prs.wf s.cfg.maxPayload
  /-- `TXBUF` has its capacity (R24). -/
  txCapacity : s.txBuf.length = 11 + s.cfg.maxPayload
  /-- Nothing but reset writes `ADDRESS` (R28, R37). -/
  address : s.address = s.cfg.initAddress
  /-- Nothing but reset writes `PASSWORD` (R29, R37). -/
  password : s.password = s.cfg.initPassword
  /-- `MATCH_VALID` guards `MATCH_ID` (R30). -/
  matchId : s.matchId.isSome = s.matchValid
  /-- `MATCH_VALID` guards `CONFIDENCE` too (R31). -/
  confidence : s.confidence.isSome = s.matchValid
  /-- `COUNT_VALID` guards `TEMPLATE_COUNT` (R32). -/
  templateCount : s.templateCount.isSome = s.countValid
  /-- The parser is in use exactly in RX (R25, R130). -/
  parserUse : s.prs.state = .off ↔ s.seqState ≠ .rx
  /-- In RX the parse has the request's timeout (R27, R176, R187). -/
  timeout : s.seqState = .rx → s.prsTimeout = s.reqTimeout
  /-- Outside IDLE the request registers hold a request that passed CHECK (R23, R170). -/
  request : s.seqState ≠ .idle → ∃ r plan,
    s.holds r = true ∧ check s.cfg s.password r = .ok plan ∧ s.phaseOk r plan

/-- Does the host offer a further request in this turn (10_state.md R35; log 5, log 16)? -/
def Turn.isOffer : Turn → Bool
  | .offer _ => true
  | .fpe => false
  | .rx _ => false
  | .txReady _ => false
  | .tick => false
  | .rst _ => false

/-- A run is over when the Sequencer is IDLE and the host offers no further request, neither in its channel nor in a turn to
come (70_reset_and_hazards.md R285). Every accepted request has then responded, but for one that a reset abandoned, which
never responds (R272). The spec does not say whether such a request keeps a run from being over; the model says that it
does not (DESIGN CHOICE, log 22). -/
def State.runOver (s : State) : Bool := s.seqState = .idle && s.hostq.isEmpty && !s.agenda.any Turn.isOffer

/-- It is the FPE's turn in `s`, and `t` is `s` with that turn taken from the agenda: the agenda is empty, or
its head is the FPE's turn (log 5). -/
def State.fpeTurn (s t : State) : Prop :=
  (s.agenda = [] ∧ t = s) ∨ ∃ rest, s.agenda = .fpe :: rest ∧ t = { s with agenda := rest }

/-- `s` after an accept step that starts to send the frame of this type and payload: the request registers
hold the request, `TXBUF` begins with the frame, and nothing else has changed (42_command_protocol.md
R170, R174, R186). -/
def State.sending (s : State) (kind : BitVec 2) (cmd : BitVec 4) (f : Fields) (ftype : Byte) (payload : List Byte) : State :=
  { s with
    seqState := .tx
    reqKind := some kind, reqCmd := some cmd, reqTimeout := some f.timeout
    reqA8 := some f.a8, reqA16 := some f.a16, reqA32 := some f.a32, reqFtype := some f.ftype
    txBuf := (encodeFrame s.address ftype payload).map some ++ s.txBuf.drop (11 + payload.length)
    txLen := BitVec.ofNat 17 (11 + payload.length)
    txIdx := 0 }

/-- `s` after an accept step that rejects the request: the request registers hold it, CALLER_MISUSE with this
reason code has been answered, and nothing else has changed (42_command_protocol.md R170). -/
def State.rejecting (s : State) (kind : BitVec 2) (cmd : BitVec 4) (f : Fields) (reason : BitVec 4) : State :=
  { s with
    reqKind := some kind, reqCmd := some cmd, reqTimeout := some f.timeout
    reqA8 := some f.a8, reqA16 := some f.a16, reqA32 := some f.a32, reqFtype := some f.ftype
    responses := s.responses ++ [{ kind := .callerMisuse, reason := reason }] }

/-- `s` with a parse of this timeout just started (41_stream_assembler.md R131). -/
def State.parsing (s : State) (timeout : Word) : State :=
  { s with
    seqState := .rx
    prs :=
      { state := .waitStartHi, idx := 0, addr := ⟨none, none, none, none⟩, ftype := none, lenHi := none, lenLo := none,
        n := none, payload := List.replicate s.cfg.maxPayload none, acc := none, sumHi := none, err := none }
    prsTimeout := some timeout
    elapsedMs := 0 }

/-- `s` after a finish step with this response: the parser is OFF, the Sequencer IDLE, and nothing else has
changed (42_command_protocol.md R177). -/
def State.finished (s : State) (r : Response) : State :=
  { s with responses := s.responses ++ [r], seqState := .idle, prs := { s.prs with state := .off } }

end Sys2Proof.Machine
end

