-- ==== Sys2Proof/Certificates/Slice0/Obligations.lean ====
section
/-! DEFINITION. The statements for the provers. -/

open Sys2Proof Sys2Proof.Machine

/-! ### The Frame Codec -/

/-- 40_frame_codec.md R100: the checksum is the integer sum truncated to 16 bits, and for payloads of at most
255 bytes a frame's checksum is the sum itself. -/
def Obligations.ChecksumIsTheSumTruncated : Prop :=
  ∀ (lenHi lenLo ftype : Byte) (p : List Byte),
    (cs16 lenHi lenLo ftype p).toNat
        = (lenHi.toNat + lenLo.toNat + ftype.toNat + (p.map BitVec.toNat).sum) % 65536
      ∧ (p.length ≤ 255 → (frameChecksum ftype p).toNat
          = (p.length + 2) / 256 + (p.length + 2) % 256 + ftype.toNat + (p.map BitVec.toNat).sum)

/-- 30_encoding.md R70: the byte at every offset of a frame, and its length. The sum is over the on-wire length, the type and
the payload, truncated mod 65536. -/
def Obligations.FrameBytesStandAtTheirOffsets : Prop :=
  ∀ (a : Word) (ftype : Byte) (p : List Byte) (sum : Nat), p.length ≤ 65533 →
    sum = (p.length + 2) / 256 + (p.length + 2) % 256 + ftype.toNat + (p.map BitVec.toNat).sum →
    (encodeFrame a ftype p).length = 11 + p.length
      ∧ (encodeFrame a ftype p).take 7
          = [0xEF, 0x01, a.extractLsb' 24 8, a.extractLsb' 16 8, a.extractLsb' 8 8, a.extractLsb' 0 8, ftype]
      ∧ ((encodeFrame a ftype p).drop 7).take 2
          = [BitVec.ofNat 8 ((p.length + 2) / 256), BitVec.ofNat 8 ((p.length + 2) % 256)]
      ∧ ((encodeFrame a ftype p).drop 9).take p.length = p
      ∧ (encodeFrame a ftype p).drop (9 + p.length)
          = [BitVec.ofNat 8 (sum % 65536 / 256), BitVec.ofNat 8 (sum % 65536 % 256)]

/-- 40_frame_codec.md R105: the round-trip law, for every type byte and every payload within the bound. -/
def Obligations.DecodeOfAnEncodedFrame : Prop :=
  ∀ (maxPayload : Nat) (a : Word) (ftype : Byte) (p : List Byte), maxPayload ≤ 65533 → p.length ≤ maxPayload →
    decodeFrame maxPayload (encodeFrame a ftype p) = .ok ⟨a, ftype, p⟩

/-- 40_frame_codec.md R102, R103: a buffer that decodes is exactly the encoding of what it decodes to, so no bit of
it is dropped. -/
def Obligations.DecodedBufferIsTheEncoding : Prop :=
  ∀ (maxPayload : Nat) (buf : List Byte) (fr : Frame), decodeFrame maxPayload buf = .ok fr →
    buf = encodeFrame fr.address fr.ftype fr.payload ∧ fr.payload.length ≤ maxPayload

/-- 40_frame_codec.md R106: one flipped bit in the type byte, a length byte or a payload byte is a FormatError; in
the start marker it is BAD_START, in the checksum BAD_CHECKSUM; in the address it is not detected, and the frame decodes
with the address that has that one bit flipped. -/
def Obligations.OneFlippedBitIsDetected : Prop :=
  ∀ (maxPayload : Nat) (a : Word) (ftype : Byte) (p : List Byte) (i k : Nat) (x : Byte),
    maxPayload ≤ 65533 → p.length ≤ maxPayload → k < 8 → (encodeFrame a ftype p)[i]? = some x →
    (6 ≤ i → i < 9 + p.length →
      ∃ r, decodeFrame maxPayload ((encodeFrame a ftype p).set i (x ^^^ (1#8 <<< k))) = .error r)
      ∧ (i < 2 → decodeFrame maxPayload ((encodeFrame a ftype p).set i (x ^^^ (1#8 <<< k))) = .error .badStart)
      ∧ (9 + p.length ≤ i →
          decodeFrame maxPayload ((encodeFrame a ftype p).set i (x ^^^ (1#8 <<< k))) = .error .badChecksum)
      ∧ (2 ≤ i → i < 6 →
          decodeFrame maxPayload ((encodeFrame a ftype p).set i (x ^^^ (1#8 <<< k)))
            = .ok ⟨a ^^^ (1#32 <<< (8 * (5 - i) + k)), ftype, p⟩)

/-- 40_frame_codec.md R108: a reordering of the payload bytes, together with any change of the address, is not
detected. -/
def Obligations.ReorderingIsNotDetected : Prop :=
  ∀ (maxPayload : Nat) (a a' : Word) (ftype : Byte) (p q : List Byte),
    maxPayload ≤ 65533 → p.length ≤ maxPayload → p.Perm q →
    decodeFrame maxPayload
        ([0xEF, 0x01] ++ be32 a' ++ ((encodeFrame a ftype p).drop 6).take 3 ++ q ++ (encodeFrame a ftype p).drop (9 + p.length))
      = .ok ⟨a', ftype, q⟩

/-! ### Decoding -/

/-- Words written out from the spec's encodings: headers and frame of 95_test_vectors.md, opcode bytes of the
table. -/
def Obligations.WrittenOutWordsDecode : Prop :=
  decode (.host (.record ⟨0x28, { timeout := 1000 }⟩)) = .ok (.execute 10 { timeout := 1000 })
    ∧ decode (.host (.record ⟨0x01, { ftype := 0x08, payload := [0x10, 0x20] }⟩))
        = .ok (.sendFrame 0 { ftype := 0x08, payload := [0x10, 0x20] })
    ∧ decode (.host (.record ⟨0x02, { timeout := 5 }⟩)) = .ok (.receiveFrame 0 { timeout := 5 })
    ∧ decode (.host (.call 0x07 { a8 := 2, a16 := 5, timeout := 1000 })) = .ok (.loadModel 5 2 1000)
    ∧ decode (.host (.call 0x12 { a32 := 0x12345678 })) = .ok (.setPassword 0x12345678 0)
    ∧ decode (.wire [0xEF, 0x01, 0x12, 0x34, 0x56, 0x78, 0x07, 0x00, 0x03, 0x00, 0x00, 0x0A])
        = .ok (.frameAck 0x12345678 [0x00])

/-- Decoding inverts encoding, for every well-formed instruction with every operand. -/
def Obligations.DecodeInvertsEncode : Prop :=
  ∀ i : Instr, i.wellFormed = true → decode (encode i) = .ok i

/-- 30_encoding.md R75, R76: what a header byte is, bit field by bit field. -/
def Obligations.HeaderFieldsSelectTheRequest : Prop :=
  ∀ (hdr : Byte) (f : Fields),
    decode (.host (.record ⟨hdr, f⟩))
      = if hdr.toNat / 64 ≠ 0 then .error .reservedHeaderBits
        else if hdr.toNat % 4 = 0 then .ok (.execute (BitVec.ofNat 4 (hdr.toNat / 4)) f)
        else if hdr.toNat % 4 = 1 then .ok (.sendFrame (BitVec.ofNat 4 (hdr.toNat / 4)) f)
        else if hdr.toNat % 4 = 2 then .ok (.receiveFrame (BitVec.ofNat 4 (hdr.toNat / 4)) f)
        else .error .reservedKind

/-! ### A step runs the decoded instruction -/

/-- When the Sequencer is IDLE, it is the FPE's turn and the offered line decodes to an instruction, the step is exec
of that instruction on the state with the line taken from the channel. Whose turn it is, is the model's schedule (log 5). -/
def Obligations.StepRunsTheOfferedRequest : Prop :=
  ∀ (s t : State) (l : HostLine) (rest : List HostLine) (i : Instr),
    s.fpeTurn t → t.seqState = .idle → t.hostq = l :: rest → decode (.host l) = .ok i →
    step s = exec i { t with hostq := rest }

/-- When a request is in progress and it is the FPE's turn, the step is exec of the request that the request
registers hold. That exec of a request in progress is its next step is the model's choice (log 12). -/
def Obligations.StepContinuesTheRequestInProgress : Prop :=
  ∀ (s t : State) (r : Request) (i : Instr),
    s.fpeTurn t → t.seqState ≠ .idle → t.holds r = true → decode (.host (.record r)) = .ok i → step s = exec i t

/-- Arriving bytes that are one frame of the four types are run as that frame's instruction: the model's reading of a
FRAME_TYPE row (log 4). -/
def Obligations.StepRunsTheArrivingFrame : Prop :=
  ∀ (s : State) (bytes : List Byte) (rest : List Turn) (i : Instr),
    s.agenda = .rx bytes :: rest → decode (.wire bytes) = .ok i → step s = exec i { s with agenda := rest }

/-- 10_state.md R36, R35: whatever bytes arrive, a frame or not, they join `RXQ` at its end and nothing else changes; a request
the host offers, in any state, waits in the host's channel behind those it offered before, and nothing else changes. That
these are turns of the agenda is the model's schedule (log 5). -/
def Obligations.ArrivingBytesJoinTheQueue : Prop :=
  ∀ (s : State) (rest : List Turn),
    (∀ bytes : List Byte, s.agenda = .rx bytes :: rest →
      step s = .next { s with agenda := rest, rxq := s.rxq ++ bytes })
      ∧ ∀ l : HostLine, s.agenda = .offer l :: rest →
        step s = .next { s with agenda := rest, hostq := s.hostq ++ [l] }

/-! ### Host requests and commands: the accept step

exec of a command or of a request in IDLE is its accept step (42_command_protocol.md R170; log 12). -/

/-- 42_command_protocol.md R170: a request offered while another is in progress is not taken. That exec then answers the
unchanged state is the model's reading of a step that is not enabled (log 12). -/
def Obligations.RequestIsHeldWhileBusy : Prop :=
  ∀ (s : State) (r : Request) (i : Instr),
    s.seqState ≠ .idle → decode (.host (.record r)) = .ok i → s.holds r = false → exec i s = .next s

/-- 42_command_protocol.md R172, R170: a reserved header is answered BAD_REQUEST in the accept step; only the request
registers and the response channel change. -/
def Obligations.ReservedHeaderIsRejected : Prop :=
  ∀ (s t : State) (hdr : Byte) (f : Fields) (rest : List HostLine),
    s.fpeTurn t → t.seqState = .idle → t.hostq = .record ⟨hdr, f⟩ :: rest →
    hdr.extractLsb' 6 2 ≠ 0 ∨ hdr.extractLsb' 0 2 = 3 →
    step s = .next ({ t with hostq := rest }.rejecting (hdr.extractLsb' 0 2) (hdr.extractLsb' 2 4) f 1)

/-- 43_device_operations.md R202, R204, R210, R212: the commands without operands send their opcode byte alone. -/
def Obligations.CommandsWithoutOperandsStart : Prop :=
  ∀ (s : State) (t : Word), s.seqState = .idle → 1 ≤ s.cfg.maxPayload →
    exec (.captureImage t) s = .next (s.sending 0 1 { timeout := t } 0x01 [s.cfg.opcodes.captureImage])
      ∧ exec (.createModel t) s = .next (s.sending 0 3 { timeout := t } 0x01 [s.cfg.opcodes.createModel])
      ∧ exec (.emptyDatabase t) s = .next (s.sending 0 9 { timeout := t } 0x01 [s.cfg.opcodes.emptyDatabase])
      ∧ exec (.getTemplateCount t) s = .next (s.sending 0 11 { timeout := t } 0x01 [s.cfg.opcodes.getTemplateCount])

/-- 43_device_operations.md R201, R213: VerifyPassword sends the `PASSWORD` register, SetPassword its operand, both
big-endian; neither writes `PASSWORD`. -/
def Obligations.PasswordCommandsStart : Prop :=
  ∀ (s : State) (w t : Word), s.seqState = .idle → 5 ≤ s.cfg.maxPayload →
    exec (.verifyPassword t) s
        = .next (s.sending 0 0 { timeout := t } 0x01
            [s.cfg.opcodes.verifyPassword, s.password.extractLsb' 24 8, s.password.extractLsb' 16 8,
             s.password.extractLsb' 8 8, s.password.extractLsb' 0 8])
      ∧ exec (.setPassword w t) s
        = .next (s.sending 0 12 { a32 := w, timeout := t } 0x01
            [s.cfg.opcodes.setPassword, w.extractLsb' 24 8, w.extractLsb' 16 8, w.extractLsb' 8 8, w.extractLsb' 0 8])

/-- 43_device_operations.md R203, R207, R208: a slot or buffer of 1 or 2 is sent after the opcode; any other value is
BAD_SLOT and nothing is sent. -/
def Obligations.SlotCommandsStartOrReject : Prop :=
  ∀ (s : State) (x : Byte) (t : Word), s.seqState = .idle → 2 ≤ s.cfg.maxPayload →
    (x = 1 ∨ x = 2 →
      exec (.extractFeatures x t) s
          = .next (s.sending 0 2 { a8 := x, timeout := t } 0x01 [s.cfg.opcodes.extractFeatures, x])
        ∧ exec (.uploadModel x t) s = .next (s.sending 0 6 { a8 := x, timeout := t } 0x01 [s.cfg.opcodes.uploadModel, x])
        ∧ exec (.downloadModel x t) s
          = .next (s.sending 0 7 { a8 := x, timeout := t } 0x01 [s.cfg.opcodes.downloadModel, x]))
      ∧ (x ≠ 1 → x ≠ 2 →
        exec (.extractFeatures x t) s = .next (s.rejecting 0 2 { a8 := x, timeout := t } 3)
          ∧ exec (.uploadModel x t) s = .next (s.rejecting 0 6 { a8 := x, timeout := t } 3)
          ∧ exec (.downloadModel x t) s = .next (s.rejecting 0 7 { a8 := x, timeout := t } 3))

/-- 43_device_operations.md R205, R209: a location below `LIBRARY_CAPACITY` is sent big-endian between the rule's
constants; any other is BAD_LOCATION and nothing is sent. -/
def Obligations.LocationCommandsStartOrReject : Prop :=
  ∀ (s : State) (loc : Half) (t : Word), s.seqState = .idle → 5 ≤ s.cfg.maxPayload →
    (loc.toNat < s.cfg.libraryCapacity →
      exec (.storeModel loc t) s
          = .next (s.sending 0 4 { a16 := loc, timeout := t } 0x01
              [s.cfg.opcodes.storeModel, 0x01, loc.extractLsb' 8 8, loc.extractLsb' 0 8])
        ∧ exec (.deleteModel loc t) s
          = .next (s.sending 0 8 { a16 := loc, timeout := t } 0x01
              [s.cfg.opcodes.deleteModel, loc.extractLsb' 8 8, loc.extractLsb' 0 8, 0x00, 0x01]))
      ∧ (s.cfg.libraryCapacity ≤ loc.toNat →
        exec (.storeModel loc t) s = .next (s.rejecting 0 4 { a16 := loc, timeout := t } 4)
          ∧ exec (.deleteModel loc t) s = .next (s.rejecting 0 8 { a16 := loc, timeout := t } 4))

/-- 43_device_operations.md R206: LoadModel checks its buffer, then its location. -/
def Obligations.LoadModelStartsOrRejects : Prop :=
  ∀ (s : State) (loc : Half) (x : Byte) (t : Word), s.seqState = .idle → 4 ≤ s.cfg.maxPayload →
    (x ≠ 1 → x ≠ 2 → exec (.loadModel loc x t) s = .next (s.rejecting 0 5 { a8 := x, a16 := loc, timeout := t } 3))
      ∧ (x = 1 ∨ x = 2 → s.cfg.libraryCapacity ≤ loc.toNat →
          exec (.loadModel loc x t) s = .next (s.rejecting 0 5 { a8 := x, a16 := loc, timeout := t } 4))
      ∧ (x = 1 ∨ x = 2 → loc.toNat < s.cfg.libraryCapacity →
          exec (.loadModel loc x t) s
            = .next (s.sending 0 5 { a8 := x, a16 := loc, timeout := t } 0x01
                [s.cfg.opcodes.loadModel, x, loc.extractLsb' 8 8, loc.extractLsb' 0 8]))

/-- 43_device_operations.md R211: FastSearch sends buffer 1, start page 0 and the page count of the instance. -/
def Obligations.FastSearchStarts : Prop :=
  ∀ (s : State) (t : Word), s.seqState = .idle → 6 ≤ s.cfg.maxPayload →
    exec (.fastSearch t) s
      = .next (s.sending 0 10 { timeout := t } 0x01
          [s.cfg.opcodes.fastSearch, 0x01, 0x00, 0x00, s.cfg.searchPageCount.extractLsb' 8 8,
           s.cfg.searchPageCount.extractLsb' 0 8])

/-- 42_command_protocol.md R173, R174, R188: EXECUTE of a reserved selector is BAD_COMMAND; of a command whose arguments
and length pass, it sends that command's payload, and every field of the request is copied. That exec of EXECUTE in IDLE is
its accept step is the model's choice (log 12). -/
def Obligations.ExecuteStartsItsCommand : Prop :=
  ∀ (s : State) (f : Fields), s.seqState = .idle →
    (∀ c : BitVec 4, 12 < c.toNat → exec (.execute c f) s = .next (s.rejecting 0 c f 2))
      ∧ ∀ c : Command,
        (∀ m, argCheck s.cfg c f = .error m → exec (.execute c.selector f) s = .next (s.rejecting 0 c.selector f m.code))
          ∧ (argCheck s.cfg c f = .ok () → s.cfg.maxPayload < (cmdPayload s.cfg s.password c f).length →
              exec (.execute c.selector f) s = .next (s.rejecting 0 c.selector f 5))
          ∧ (argCheck s.cfg c f = .ok () → (cmdPayload s.cfg s.password c f).length ≤ s.cfg.maxPayload →
              exec (.execute c.selector f) s
                = .next (s.sending 0 c.selector f 0x01 (cmdPayload s.cfg s.password c f)))

/-- 42_command_protocol.md R186: SEND_FRAME checks the type, then the length, then sends the frame. -/
def Obligations.SendFrameStartsOrRejects : Prop :=
  ∀ (s : State) (c : BitVec 4) (f : Fields), s.seqState = .idle →
    (f.ftype ≠ 0x01 → f.ftype ≠ 0x02 → f.ftype ≠ 0x07 → f.ftype ≠ 0x08 →
      exec (.sendFrame c f) s = .next (s.rejecting 1 c f 6))
      ∧ (f.ftype = 0x01 ∨ f.ftype = 0x02 ∨ f.ftype = 0x07 ∨ f.ftype = 0x08 →
        (s.cfg.maxPayload < f.payload.length → exec (.sendFrame c f) s = .next (s.rejecting 1 c f 5))
          ∧ (f.payload.length ≤ s.cfg.maxPayload →
              exec (.sendFrame c f) s = .next (s.sending 1 c f f.ftype f.payload)))

/-- 42_command_protocol.md R187: RECEIVE_FRAME starts a parse at once, with the request's timeout; nothing is sent. -/
def Obligations.ReceiveFrameStartsAParse : Prop :=
  ∀ (s : State) (c : BitVec 4) (f : Fields), s.seqState = .idle →
    exec (.receiveFrame c f) s
      = .next ({ s with
          reqKind := some 2, reqCmd := some c, reqTimeout := some f.timeout
          reqA8 := some f.a8, reqA16 := some f.a16, reqA32 := some f.a32, reqFtype := some f.ftype }.parsing f.timeout)

/-- 30_encoding.md R70, R72, 10_state.md R36: a frame of each type joins the receive queue as its bytes, and nothing
else changes. The reading of a FRAME_TYPE row as the arrival of the frame is the model's choice (log 4). -/
def Obligations.WireFramesJoinTheQueue : Prop :=
  ∀ (s : State) (a : Word) (p : List Byte),
    exec (.frameCommand a p) s = .next { s with rxq := s.rxq ++ encodeFrame a 0x01 p }
      ∧ exec (.frameData a p) s = .next { s with rxq := s.rxq ++ encodeFrame a 0x02 p }
      ∧ exec (.frameAck a p) s = .next { s with rxq := s.rxq ++ encodeFrame a 0x07 p }
      ∧ exec (.frameEndOfData a p) s = .next { s with rxq := s.rxq ++ encodeFrame a 0x08 p }

/-! ### Transmitting -/

/-- 42_command_protocol.md R175: one byte per step while the transport is ready; no step while it is not. 10_state.md R35: the
transport raises or lowers `tx_ready` in any state, and nothing else changes then. That a turn without an enabled step leaves
the state as it is (log 13) and that the transport's move is a turn of the agenda (log 5) are the model's choices. -/
def Obligations.TransmitStepWritesTheNextByte : Prop :=
  (∀ (s t : State) (b : Byte), s.fpeTurn t → t.seqState = .tx → t.txIdx.toNat < t.txLen.toNat →
    t.txBuf[t.txIdx.toNat]? = some (some b) →
    (t.txReady = true → step s = .next { t with txStream := t.txStream ++ [b], txIdx := t.txIdx + 1 })
      ∧ (t.txReady = false → step s = .next t))
    ∧ ∀ (s : State) (ready : Bool) (rest : List Turn), s.agenda = .txReady ready :: rest →
      step s = .next { s with agenda := rest, txReady := ready }

/-- 42_command_protocol.md R176: after the last byte, EXECUTE starts the parse and SEND_FRAME responds OK. `RXQ` is not
flushed. -/
def Obligations.EndOfTransmitStartsTheParseOrResponds : Prop :=
  ∀ (s t : State), s.fpeTurn t → t.seqState = .tx → t.txIdx = t.txLen →
    (∀ timeout, t.reqKind = some 0 → t.reqTimeout = some timeout → step s = .next (t.parsing timeout))
      ∧ (t.reqKind = some 1 → step s = .next { t with responses := t.responses ++ [{ kind := .ok }], seqState := .idle })

/-! ### The Frame Parser -/

/-- 41_stream_assembler.md R132 to R134: the hunt for the start marker. -/
def Obligations.ParserHuntsTheStartMarker : Prop :=
  ∀ (s t : State) (b : Byte) (rest : List Byte), s.fpeTurn t → t.seqState = .rx → t.rxq = b :: rest →
    (t.prs.state = .waitStartHi →
      step s = .next (if b = 0xEF then { t with rxq := rest, prs := { t.prs with state := .waitStartLo } }
        else { t with rxq := rest }))
      ∧ (t.prs.state = .waitStartLo →
        step s = .next (if b = 0x01 then { t with rxq := rest, prs := { t.prs with state := .addr, idx := 0 } }
          else { t with rxq := rest, prs := { t.prs with state := .err, err := some .badStart } }))

/-- 41_stream_assembler.md R135: the four address bytes, the most significant first, any value accepted. -/
def Obligations.ParserCapturesTheAddress : Prop :=
  (∀ (s t : State) (b : Byte) (rest : List Byte), s.fpeTurn t → t.seqState = .rx → t.rxq = b :: rest →
    t.prs.state = .addr →
    (t.prs.idx = 0 →
      step s = .next { t with rxq := rest, prs := { t.prs with addr := { t.prs.addr with b0 := some b }, idx := 1 } })
      ∧ (t.prs.idx = 1 →
        step s = .next { t with rxq := rest, prs := { t.prs with addr := { t.prs.addr with b1 := some b }, idx := 2 } })
      ∧ (t.prs.idx = 2 →
        step s = .next { t with rxq := rest, prs := { t.prs with addr := { t.prs.addr with b2 := some b }, idx := 3 } })
      ∧ (t.prs.idx = 3 →
        step s = .next { t with
          rxq := rest, prs := { t.prs with addr := { t.prs.addr with b3 := some b }, state := .type } }))
    ∧ ∀ (w : Bytes4) (b0 b1 b2 b3 : Byte), w = ⟨some b0, some b1, some b2, some b3⟩ →
      ∃ v, w.word = some v
        ∧ v.toNat = b0.toNat * 2 ^ 24 + b1.toNat * 2 ^ 16 + b2.toNat * 2 ^ 8 + b3.toNat

/-- 41_stream_assembler.md R136, R137: the type byte starts the running checksum, the high length byte is added. -/
def Obligations.ParserCapturesTypeAndLengthHigh : Prop :=
  ∀ (s t : State) (b : Byte) (rest : List Byte), s.fpeTurn t → t.seqState = .rx → t.rxq = b :: rest →
    (t.prs.state = .type →
      step s = .next { t with
        rxq := rest, prs := { t.prs with ftype := some b, acc := some (b.setWidth 16), state := .lenHi } })
      ∧ (∀ acc, t.prs.state = .lenHi → t.prs.acc = some acc →
        step s = .next { t with
          rxq := rest, prs := { t.prs with lenHi := some b, acc := some (acc + b.setWidth 16), state := .lenLo } })

/-- 41_stream_assembler.md R138: the length check, made before any payload byte is read. -/
def Obligations.ParserChecksTheLength : Prop :=
  ∀ (s t : State) (b h : Byte) (acc : Half) (rest : List Byte), s.fpeTurn t → t.seqState = .rx → t.rxq = b :: rest →
    t.prs.state = .lenLo → t.prs.lenHi = some h → t.prs.acc = some acc →
    (h.toNat * 256 + b.toNat < 2 →
      step s = .next { t with
        rxq := rest
        prs := { t.prs with lenLo := some b, acc := some (acc + b.setWidth 16), state := .err, err := some .lenShort } })
      ∧ (t.cfg.maxPayload + 2 < h.toNat * 256 + b.toNat →
        step s = .next { t with
          rxq := rest
          prs := { t.prs with lenLo := some b, acc := some (acc + b.setWidth 16), state := .err, err := some .lenLong } })
      ∧ (2 ≤ h.toNat * 256 + b.toNat → h.toNat * 256 + b.toNat ≤ t.cfg.maxPayload + 2 →
        step s = .next { t with
          rxq := rest
          prs := { t.prs with
            lenLo := some b, acc := some (acc + b.setWidth 16), n := some (BitVec.ofNat 16 (h.toNat * 256 + b.toNat - 2))
            idx := 0, state := if h.toNat * 256 + b.toNat = 2 then .sumHi else .payload } })

/-- 41_stream_assembler.md R139: a payload byte is stored at `PRS_IDX` and added to the running checksum. -/
def Obligations.ParserStoresThePayload : Prop :=
  ∀ (s t : State) (b : Byte) (n acc : Half) (rest : List Byte), s.fpeTurn t → t.seqState = .rx → t.rxq = b :: rest →
    t.prs.state = .payload → t.prs.n = some n → t.prs.acc = some acc → t.prs.idx.toNat < n.toNat →
    t.prs.idx.toNat < t.prs.payload.length →
    step s = .next { t with
      rxq := rest
      prs :=
        if t.prs.idx.toNat + 1 = n.toNat then
          { t.prs with
            payload := t.prs.payload.set t.prs.idx.toNat (some b), acc := some (acc + b.setWidth 16), state := .sumHi }
        else
          { t.prs with
            payload := t.prs.payload.set t.prs.idx.toNat (some b), acc := some (acc + b.setWidth 16)
            idx := t.prs.idx + 1 } }

/-- 41_stream_assembler.md R140, R141: the checksum bytes are kept out of the payload; the frame completes exactly when
they equal the running checksum, and the outcome is then the captured frame, else BAD_CHECKSUM. -/
def Obligations.ParserComparesTheChecksum : Prop :=
  ∀ (s t : State) (b : Byte) (rest : List Byte), s.fpeTurn t → t.seqState = .rx → t.rxq = b :: rest →
    (t.prs.state = .sumHi → step s = .next { t with rxq := rest, prs := { t.prs with sumHi := some b, state := .sumLo } })
      ∧ (∀ h acc, t.prs.state = .sumLo → t.prs.sumHi = some h → t.prs.acc = some acc →
        step s = .next (if h.toNat * 256 + b.toNat = acc.toNat then { t with rxq := rest, prs := { t.prs with state := .done } }
          else { t with rxq := rest, prs := { t.prs with state := .err, err := some .badChecksum } }))
      ∧ ({ t.prs with state := .done } : Parser).outcome = t.prs.frame.map .complete
      ∧ ({ t.prs with state := .err, err := some .badChecksum } : Parser).outcome = .ok (.error .badChecksum)

/-- 41_stream_assembler.md R142: a tick that is enabled counts, saturating, while the parser is active, and changes no
register otherwise. -/
def Obligations.TickCountsWhileTheParserIsActive : Prop :=
  ∀ (s : State) (rest : List Turn), s.agenda = .tick :: rest →
    ((s.seqState ≠ .rx ∨ s.prs.state.isWait = false) → step s = .next { s with agenda := rest })
      ∧ (∀ timeout, s.seqState = .rx → s.prs.state.isWait = true → s.prsTimeout = some timeout →
        (s.rxq ≠ [] ∨ s.elapsedMs.toNat < timeout.toNat
          ∨ s.elapsedMs.toNat < min (timeout.toNat + s.cfg.pollMs) 0xFFFFFFFF) →
        step s = .next { s with agenda := rest, elapsedMs := BitVec.ofNat 32 (min (s.elapsedMs.toNat + 1) 0xFFFFFFFF) })

/-- 41_stream_assembler.md R143: with nothing to read, the FPE's step is the Timeout step once the timeout has passed, and
until then it waits; a byte in `RXQ` is read instead. That a turn without an enabled step leaves the state as it is, is the
model's choice (log 13). -/
def Obligations.TimeoutNeedsAnEmptyQueueAndThePassedTime : Prop :=
  ∀ (s t : State) (timeout : Word), s.fpeTurn t → t.seqState = .rx → t.prs.state.isWait = true →
    t.prsTimeout = some timeout →
    (t.rxq = [] → timeout.toNat ≤ t.elapsedMs.toNat →
      step s = .next { t with prs := { t.prs with state := .timeout } })
      ∧ (t.rxq = [] → t.elapsedMs.toNat < timeout.toNat → step s = .next t)
      ∧ (∀ b rest u, t.rxq = b :: rest → step s = .next u → u.rxq = rest ∧ u.prs.state ≠ .timeout)

/-- 41_stream_assembler.md R144: at the poll limit the clock waits for the Timeout step: the tick stays pending and the
Timeout step is taken. That the tick stays at the head of the agenda is the model's schedule (log 5). -/
def Obligations.TickWaitsForTheTimeoutAtThePollLimit : Prop :=
  ∀ (s : State) (rest : List Turn) (timeout : Word), s.agenda = .tick :: rest → s.seqState = .rx →
    s.prs.state.isWait = true → s.rxq = [] → s.prsTimeout = some timeout → timeout.toNat ≤ s.elapsedMs.toNat →
    min (timeout.toNat + s.cfg.pollMs) 0xFFFFFFFF ≤ s.elapsedMs.toNat →
    step s = .next { s with prs := { s.prs with state := .timeout } }

/-- 41_stream_assembler.md R152: with no byte in the queue and none arriving, any mix of ticks and FPE turns with enough ticks
brings the parse to TIMEOUT, with `ELAPSED_MS` in the window the rule gives. No other agent moves in this run, and the turns
are the model's schedule (log 5). -/
def Obligations.SilenceTimesOutWithinOnePoll : Prop :=
  ∀ (s : State) (timeout : Word) (turns rest : List Turn), s.seqState = .rx → s.prs.state.isWait = true → s.rxq = [] →
    s.prsTimeout = some timeout → s.elapsedMs = 0 → (∀ turn ∈ turns, turn = .tick ∨ turn = .fpe) →
    timeout.toNat + s.cfg.pollMs < turns.count .tick → s.agenda = turns ++ rest →
    ∃ (j : Nat) (t : State), j ≤ turns.length ∧ Host.Core.run Sys2Proof.core j s = .next t ∧ t.prs.state = .timeout
      ∧ timeout.toNat ≤ t.elapsedMs.toNat ∧ t.elapsedMs.toNat ≤ timeout.toNat + s.cfg.pollMs

/-- 41_stream_assembler.md R144, R152: whatever the order of ticks and FPE turns, a parse that starts with an empty queue and
gets no byte never counts past the poll limit, and it times out only once its time has passed. -/
def Obligations.SilentParseStaysWithinThePollLimit : Prop :=
  ∀ (s t : State) (timeout : Word) (turn : Turn) (rest : List Turn), s.seqState = .rx → s.prs.state.isWait = true →
    s.rxq = [] → s.prsTimeout = some timeout → s.elapsedMs.toNat ≤ timeout.toNat + s.cfg.pollMs →
    s.agenda = turn :: rest → (turn = .tick ∨ turn = .fpe) → step s = .next t →
    t.rxq = [] ∧ t.seqState = .rx ∧ t.prsTimeout = some timeout ∧ t.cfg = s.cfg
      ∧ t.elapsedMs.toNat ≤ timeout.toNat + s.cfg.pollMs
      ∧ (t.prs.state = .timeout ∧ timeout.toNat ≤ t.elapsedMs.toNat ∨ t.prs.state = s.prs.state)

/-- 70_reset_and_hazards.md R280: a gapless stream of noise, however long, keeps the parse running, whatever the timeout and
the time passed. No other agent moves in this run (log 5). -/
def Obligations.EndlessNoiseKeepsTheParseRunning : Prop :=
  ∀ (s : State) (junk rest : List Byte), s.seqState = .rx → s.prs.state = .waitStartHi → (0xEF : Byte) ∉ junk →
    s.rxq = junk ++ rest → s.agenda = [] →
    Host.Core.run Sys2Proof.core junk.length s = .next { s with rxq := rest }

/-- 41_stream_assembler.md R150: noise without `0xEF` before a frame is skipped, the frame is captured whole, and the bytes
behind it stay in `RXQ`. No other agent moves in this run (log 5). -/
def Obligations.ResynchronisationOnNoise : Prop :=
  ∀ (s : State) (a : Word) (ftype : Byte) (p junk rest : List Byte) (timeout : Word),
    p.length ≤ s.cfg.maxPayload → (0xEF : Byte) ∉ junk → s.agenda = [] →
    s.rxq = junk ++ encodeFrame a ftype p ++ rest →
    ∃ t : State, Host.Core.run Sys2Proof.core (junk.length + (11 + p.length)) (s.parsing timeout) = .next t
      ∧ t.prs.state = .done ∧ t.prs.frame = .ok ⟨a, ftype, p⟩ ∧ t.rxq = rest
      ∧ t = { s.parsing timeout with prs := t.prs, rxq := rest }

/-- 41_stream_assembler.md R151: a noise byte `0xEF` followed by anything but `0x01` ends the parse at that byte.
No other agent moves in this run (log 5). -/
def Obligations.StrayMarkerByteEndsTheParse : Prop :=
  ∀ (s : State) (b : Byte) (junk rest : List Byte) (timeout : Word), (0xEF : Byte) ∉ junk → b ≠ 0x01 → s.agenda = [] →
    s.rxq = junk ++ 0xEF :: b :: rest →
    Host.Core.run Sys2Proof.core (junk.length + 2) (s.parsing timeout)
      = .next { s.parsing timeout with
          rxq := rest, prs := { (s.parsing timeout).prs with state := .err, err := some .badStart } }

/-- 40_frame_codec.md R107: the whole-buffer decoder and the streaming parser agree, case by case. -/
def Obligations.DecoderAndParserAgree : Prop :=
  ∀ (maxPayload : Nat) (a0 a1 a2 a3 ty lenHi lenLo s1 : Byte) (tail buf : List Byte) (L : Nat),
    maxPayload ≤ 65533 → buf = [0xEF, s1, a0, a1, a2, a3, ty, lenHi, lenLo] ++ tail → 2 ≤ tail.length →
    L = lenHi.toNat * 256 + lenLo.toNat →
    let p0 : Parser := { Parser.reset maxPayload with state := .waitStartHi }
    (∀ fr, decodeFrame maxPayload buf = .ok fr →
      ∃ q, feedAll maxPayload p0 buf = .ok (q, []) ∧ q.state = .done ∧ q.frame = .ok fr)
      ∧ (s1 ≠ 0x01 → decodeFrame maxPayload buf = .error .badStart
          ∧ ∃ q, feedAll maxPayload p0 buf = .ok (q, buf.drop 2) ∧ q.state = .err ∧ q.err = some .badStart)
      ∧ (s1 = 0x01 → L < 2 → decodeFrame maxPayload buf = .error .lenShort
          ∧ ∃ q, feedAll maxPayload p0 buf = .ok (q, tail) ∧ q.state = .err ∧ q.err = some .lenShort)
      ∧ (s1 = 0x01 → maxPayload + 2 < L → decodeFrame maxPayload buf = .error .lenLong
          ∧ ∃ q, feedAll maxPayload p0 buf = .ok (q, tail) ∧ q.state = .err ∧ q.err = some .lenLong)
      ∧ (s1 = 0x01 → 2 ≤ L → L ≤ maxPayload + 2 → buf.length < L + 9 → decodeFrame maxPayload buf = .error .lenShort
          ∧ ∃ q, feedAll maxPayload p0 buf = .ok (q, []) ∧ q.state.isWait = true)
      ∧ (s1 = 0x01 → 2 ≤ L → L ≤ maxPayload + 2 → L + 9 < buf.length → decodeFrame maxPayload buf = .error .lenLong
          ∧ ∃ q, feedAll maxPayload p0 (buf.take (L + 9)) = .ok (q, []) ∧ q.state.isTerminal = true
              ∧ feedAll maxPayload p0 buf = .ok (q, buf.drop (L + 9)))
      ∧ (s1 = 0x01 → 2 ≤ L → L ≤ maxPayload + 2 → buf.length = L + 9 →
          decodeFrame maxPayload buf = .error .badChecksum →
          ∃ q, feedAll maxPayload p0 buf = .ok (q, []) ∧ q.state = .err ∧ q.err = some .badChecksum)

/-! ### Finishing -/

/-- 42_command_protocol.md R178, R187: a parse that failed ends EXECUTE and RECEIVE_FRAME with the same record, and writes no
session register. The reason has the number of 60_exceptions.md R243; `PRS_ERR` holds 5 and 6 in no run, and a state with
one of them is answered with its number too. -/
def Obligations.FailedParseIsPropagated : Prop :=
  ∀ (s t : State), s.fpeTurn t → t.seqState = .rx →
    (t.prs.state = .timeout → step s = .next (t.finished { kind := .timeout }))
      ∧ ∀ (r : FormatReason) (code : BitVec 4), t.prs.state = .err → t.prs.err = some r →
        (r = .badStart ∧ code = 1 ∨ r = .lenShort ∧ code = 2 ∨ r = .lenLong ∧ code = 3 ∨ r = .badChecksum ∧ code = 4
          ∨ r = .wrongType ∧ code = 5 ∨ r = .shortAck ∧ code = 6) →
        step s = .next (t.finished { kind := .formatError, reason := code })

/-- 42_command_protocol.md R179, R180, R181 (first case): EXECUTE with a complete frame that is no acknowledgement, an empty
acknowledgement, or one with a nonzero status. The records as they are, and nothing else changed. Only the registers that
the rule reads need hold a value. -/
def Obligations.ExecuteReportsTheReply : Prop :=
  ∀ (s t : State) (a : Word), s.fpeTurn t → t.seqState = .rx → t.prs.state = .done → t.reqKind = some 0 →
    (∀ ty, t.prs.ftype = some ty → t.prs.addr.word = some a → ty ≠ 0x07 →
      step s = .next (t.finished { kind := .formatError, reason := 5, ftype := some ty, faddr := some a }))
      ∧ (t.prs.ftype = some 0x07 → t.prs.addr.word = some a → t.prs.n = some 0 →
        step s = .next (t.finished { kind := .formatError, reason := 6, faddr := some a }))
      ∧ (∀ st fs, t.prs.frame = .ok ⟨a, 0x07, st :: fs⟩ → st ≠ 0x00 →
        step s = .next (t.finished { kind := .deviceStatus, status := some st, fields := some fs, faddr := some a }))

/-- 43_device_operations.md R200: the default result, for EXECUTE of every command but FastSearch and GetTemplateCount. -/
def Obligations.SuccessfulAckIsOk : Prop :=
  ∀ (s t : State) (a : Word) (fs : List Byte) (c : Command), s.fpeTurn t → t.seqState = .rx → t.prs.state = .done →
    t.reqKind = some 0 → t.reqCmd = some c.selector → t.prs.frame = .ok ⟨a, 0x07, 0x00 :: fs⟩ →
    c ≠ .fastSearch → c ≠ .getTemplateCount →
    step s = .next (t.finished { kind := .ok, status := some 0x00, fields := some fs, faddr := some a })

/-- 43_device_operations.md R200 to R210, R213: the end of each command whose result is the default one, as the meaning of its
own instruction (log 12): with a completed acknowledgement of status `0x00` it answers OK with the fields. -/
def Obligations.CatalogueCommandsFinish : Prop :=
  ∀ (s : State) (t a w : Word) (x : Byte) (loc : Half) (fs : List Byte) (r : Response), s.seqState = .rx →
    s.prs.state = .done → s.prs.frame = .ok ⟨a, 0x07, 0x00 :: fs⟩ →
    r = { kind := .ok, status := some 0x00, fields := some fs, faddr := some a } →
    (s.holds ⟨0x00, { timeout := t }⟩ = true → exec (.verifyPassword t) s = .next (s.finished r))
      ∧ (s.holds ⟨0x04, { timeout := t }⟩ = true → exec (.captureImage t) s = .next (s.finished r))
      ∧ (s.holds ⟨0x08, { a8 := x, timeout := t }⟩ = true → exec (.extractFeatures x t) s = .next (s.finished r))
      ∧ (s.holds ⟨0x0C, { timeout := t }⟩ = true → exec (.createModel t) s = .next (s.finished r))
      ∧ (s.holds ⟨0x10, { a16 := loc, timeout := t }⟩ = true → exec (.storeModel loc t) s = .next (s.finished r))
      ∧ (s.holds ⟨0x14, { a8 := x, a16 := loc, timeout := t }⟩ = true → exec (.loadModel loc x t) s = .next (s.finished r))
      ∧ (s.holds ⟨0x18, { a8 := x, timeout := t }⟩ = true → exec (.uploadModel x t) s = .next (s.finished r))
      ∧ (s.holds ⟨0x1C, { a8 := x, timeout := t }⟩ = true → exec (.downloadModel x t) s = .next (s.finished r))
      ∧ (s.holds ⟨0x20, { a16 := loc, timeout := t }⟩ = true → exec (.deleteModel loc t) s = .next (s.finished r))
      ∧ (s.holds ⟨0x24, { timeout := t }⟩ = true → exec (.emptyDatabase t) s = .next (s.finished r))
      ∧ (s.holds ⟨0x30, { a32 := w, timeout := t }⟩ = true → exec (.setPassword w t) s = .next (s.finished r))

/-- 43_device_operations.md R211: FastSearch writes the match registers exactly on an OK reply of the full shape. That exec of
FastSearch in RX is its finish step is the model's choice (log 12). -/
def Obligations.FastSearchRecordsTheMatch : Prop :=
  ∀ (s : State) (timeout a : Word), s.seqState = .rx → s.prs.state = .done →
    s.holds ⟨0x28, { timeout := timeout }⟩ = true →
    (∀ idHi idLo confHi confLo more, s.prs.frame = .ok ⟨a, 0x07, 0x00 :: idHi :: idLo :: confHi :: confLo :: more⟩ →
      exec (.fastSearch timeout) s
        = .next ({ s with matchId := some (idHi ++ idLo), confidence := some (confHi ++ confLo), matchValid := true }.finished
            { kind := .ok, status := some 0x00, fields := some (idHi :: idLo :: confHi :: confLo :: more)
              faddr := some a, v1 := some (idHi ++ idLo), v2 := some (confHi ++ confLo) }))
      ∧ (∀ fs, fs.length < 4 → s.prs.frame = .ok ⟨a, 0x07, 0x00 :: fs⟩ →
        exec (.fastSearch timeout) s = .next (s.finished { kind := .formatError, reason := 6, faddr := some a }))

/-- 43_device_operations.md R212: GetTemplateCount writes the count exactly on an OK reply of the full shape. That exec of
GetTemplateCount in RX is its finish step is the model's choice (log 12). -/
def Obligations.GetTemplateCountRecordsTheCount : Prop :=
  ∀ (s : State) (timeout a : Word), s.seqState = .rx → s.prs.state = .done →
    s.holds ⟨0x2C, { timeout := timeout }⟩ = true →
    (∀ cntHi cntLo more, s.prs.frame = .ok ⟨a, 0x07, 0x00 :: cntHi :: cntLo :: more⟩ →
      exec (.getTemplateCount timeout) s
        = .next ({ s with templateCount := some (cntHi ++ cntLo), countValid := true }.finished
            { kind := .ok, status := some 0x00, fields := some (cntHi :: cntLo :: more), faddr := some a
              v1 := some (cntHi ++ cntLo) }))
      ∧ (∀ fs, fs.length < 2 → s.prs.frame = .ok ⟨a, 0x07, 0x00 :: fs⟩ →
        exec (.getTemplateCount timeout) s = .next (s.finished { kind := .formatError, reason := 6, faddr := some a }))

/-- 42_command_protocol.md R187: RECEIVE_FRAME delivers a complete frame of any type, whatever its payload. -/
def Obligations.ReceiveFrameDeliversAnyType : Prop :=
  ∀ (s t : State) (fr : Frame), s.fpeTurn t → t.seqState = .rx → t.prs.state = .done → t.reqKind = some 2 →
    t.prs.frame = .ok fr →
    step s = .next (t.finished
      { kind := .ok, ftype := some fr.ftype, faddr := some fr.address, fields := some fr.payload })

/-- 42_command_protocol.md R188: a whole EXECUTE, from the offered request to the response, with noise before the
acknowledgement, for every command and every acknowledgement with a status. `u` is the state before the finish step: the
command frame has gone out, the acknowledgement has been read, the bytes behind it are left. The run ends in `u` finished
with the response that the status and the command's shape give, the session registers written on an OK reply of the full
shape only. No other agent moves in this run (log 5). -/
def Obligations.ExecuteRunsFromRequestToResponse : Prop :=
  ∀ (s : State) (c : Command) (f : Fields) (q : List HostLine) (a : Word) (st : Byte) (pl fs junk rest : List Byte),
    s.agenda = [] → s.seqState = .idle → s.txReady = true →
    s.hostq = .record ⟨headerOf c.selector 0, f⟩ :: q → argCheck s.cfg c f = .ok () →
    pl = cmdPayload s.cfg s.password c f → pl.length ≤ s.cfg.maxPayload → fs.length + 1 ≤ s.cfg.maxPayload →
    (0xEF : Byte) ∉ junk → s.rxq = junk ++ encodeFrame a 0x07 (st :: fs) ++ rest →
    ∃ p : Parser, p.state = .done ∧ p.frame = .ok ⟨a, 0x07, st :: fs⟩
      ∧ ∀ (n : Nat) (u : State), n = 1 + (11 + pl.length) + 1 + (junk.length + (11 + (fs.length + 1))) + 1 →
        u = { s.sending 0 c.selector f 0x01 pl with
          seqState := .rx, hostq := q, rxq := rest, prs := p, prsTimeout := some f.timeout, elapsedMs := 0
          txStream := s.txStream ++ encodeFrame s.address 0x01 pl, txIdx := BitVec.ofNat 17 (11 + pl.length) } →
        (st ≠ 0 → Host.Core.run Sys2Proof.core n s = .next (u.finished
            { kind := .deviceStatus, status := some st, fields := some fs, faddr := some a }))
          ∧ (st = 0 → c ≠ .fastSearch → c ≠ .getTemplateCount → Host.Core.run Sys2Proof.core n s = .next (u.finished
            { kind := .ok, status := some 0x00, fields := some fs, faddr := some a }))
          ∧ (∀ i1 i0 c1 c0 more, st = 0 → c = .fastSearch → fs = i1 :: i0 :: c1 :: c0 :: more →
            Host.Core.run Sys2Proof.core n s
              = .next ({ u with matchId := some (i1 ++ i0), confidence := some (c1 ++ c0), matchValid := true }.finished
                { kind := .ok, status := some 0x00, fields := some fs, faddr := some a
                  v1 := some (i1 ++ i0), v2 := some (c1 ++ c0) }))
          ∧ (∀ n1 n0 more, st = 0 → c = .getTemplateCount → fs = n1 :: n0 :: more →
            Host.Core.run Sys2Proof.core n s
              = .next ({ u with templateCount := some (n1 ++ n0), countValid := true }.finished
                { kind := .ok, status := some 0x00, fields := some fs, faddr := some a, v1 := some (n1 ++ n0) }))
          ∧ (st = 0 → c = .fastSearch ∧ fs.length < 4 ∨ c = .getTemplateCount ∧ fs.length < 2 →
            Host.Core.run Sys2Proof.core n s
              = .next (u.finished { kind := .formatError, reason := 6, faddr := some a }))

/-! ### Reset and the status outputs -/

/-- 70_reset_and_hazards.md R270, R271: a reset event gives every FPE register its reset value, in any state, with the
parameters it brings, and leaves the transport, the host and the clock as they are. That a reset event brings the parameters
of a new instance is the model's choice (log 9). -/
def Obligations.ResetLoadsEveryRegister : Prop :=
  ∀ (s : State) (cfg : Config) (rest : List Turn), s.agenda = .rst cfg :: rest →
    step s = .next
      { cfg := cfg, seqState := .idle
        reqKind := none, reqCmd := none, reqTimeout := none, reqA8 := none, reqA16 := none, reqA32 := none, reqFtype := none
        txBuf := List.replicate (11 + cfg.maxPayload) none, txLen := 0, txIdx := 0
        prs :=
          { state := .off, idx := 0, addr := ⟨none, none, none, none⟩, ftype := none, lenHi := none, lenLo := none
            n := none, payload := List.replicate cfg.maxPayload none, acc := none, sumHi := none, err := none }
        prsTimeout := none, elapsedMs := 0, address := cfg.initAddress, password := cfg.initPassword
        matchId := none, confidence := none, matchValid := false, templateCount := none, countValid := false
        rxq := s.rxq, txStream := s.txStream, txReady := s.txReady, hostq := s.hostq, responses := s.responses
        agenda := rest }

/-- 10_state.md R33: the status outputs, the session results only while their validity bit is set. -/
def Obligations.StatusOutputsFollowTheState : Prop :=
  ∀ s : State,
    (s.statusOutputs.reqReady = true ↔ s.seqState = .idle)
      ∧ s.statusOutputs.busy = !s.statusOutputs.reqReady
      ∧ s.statusOutputs.address = s.address ∧ s.statusOutputs.password = s.password
      ∧ s.statusOutputs.matchValid = s.matchValid ∧ s.statusOutputs.countValid = s.countValid
      ∧ (s.matchValid = true → s.statusOutputs.matchId = s.matchId ∧ s.statusOutputs.confidence = s.confidence)
      ∧ (s.matchValid = false → s.statusOutputs.matchId = none ∧ s.statusOutputs.confidence = none)
      ∧ (s.countValid = true → s.statusOutputs.templateCount = s.templateCount)
      ∧ (s.countValid = false → s.statusOutputs.templateCount = none)

/-! ### Rules of the whole machine -/

/-- The invariant holds after reset. The ports' contents at reset are the model's choice (log 11); the invariant
does not speak of them. -/
def Obligations.ResetSatisfiesTheInvariant : Prop := State.reset.Inv

/-- Every step keeps the invariant. -/
def Obligations.EveryStepKeepsTheInvariant : Prop :=
  ∀ s t : State, s.Inv → step s = .next t → t.Inv

/-- 10_state.md R20: from a state of the invariant no step reads a register that holds no value, nor uses an index outside
its range: no step faults. -/
def Obligations.NoStepOfTheInvariantFaults : Prop :=
  ∀ (s : State) (f : Fault), s.Inv → step s ≠ .fault f

/-- 10_state.md R37, R28, R29: nothing writes `ADDRESS` or `PASSWORD`, nor changes the parameters, except reset. -/
def Obligations.OnlyResetWritesAddressAndPassword : Prop :=
  ∀ s t : State, step s = .next t → (∀ cfg rest, s.agenda ≠ .rst cfg :: rest) →
    t.address = s.address ∧ t.password = s.password ∧ t.cfg = s.cfg

/-- 60_exceptions.md R246, 43_device_operations.md R211, R212: a session result changes only in a reset or in the finish step
of its own command, and then that step answers OK with the new values. -/
def Obligations.SessionResultsChangeOnlyWithAnOkAnswer : Prop :=
  ∀ s t : State, step s = .next t → (∀ cfg rest, s.agenda ≠ .rst cfg :: rest) →
    ((t.matchId, t.confidence, t.matchValid) ≠ (s.matchId, s.confidence, s.matchValid) →
      s.seqState = .rx ∧ s.prs.state = .done ∧ s.reqKind = some 0 ∧ s.reqCmd = some 10 ∧ t.matchValid = true
        ∧ ∃ r, t.responses = s.responses ++ [r] ∧ r.kind = .ok ∧ r.v1 = t.matchId ∧ r.v2 = t.confidence)
      ∧ ((t.templateCount, t.countValid) ≠ (s.templateCount, s.countValid) →
        s.seqState = .rx ∧ s.prs.state = .done ∧ s.reqKind = some 0 ∧ s.reqCmd = some 11 ∧ t.countValid = true
          ∧ ∃ r, t.responses = s.responses ++ [r] ∧ r.kind = .ok ∧ r.v1 = t.templateCount)

/-- 20_memory.md R56, R59: a step writes at most one byte to the transmit stream and takes at most one byte from the head of
`RXQ`, that one only while the parser is active (41_stream_assembler.md R130); it never takes back a byte sent, and no
byte overtakes another. -/
def Obligations.StreamsMoveOneByteInOrder : Prop :=
  ∀ s t : State, step s = .next t →
    (t.txStream = s.txStream ∨ ∃ b, t.txStream = s.txStream ++ [b] ∧ s.seqState = .tx)
      ∧ ((∃ arrived, t.rxq = s.rxq ++ arrived) ∨ ∃ b, s.rxq = b :: t.rxq ∧ s.seqState = .rx ∧ s.prs.state.isWait = true)

/-- 60_exceptions.md R240: a step delivers at most one response, and in that step the Sequencer becomes or stays IDLE; a
Sequencer leaves a request, reset apart, only with a response. -/
def Obligations.ResponsesComeOneAtATimeAndEndTheRequest : Prop :=
  ∀ s t : State, step s = .next t →
    (t.responses = s.responses ∨ ∃ r, t.responses = s.responses ++ [r] ∧ t.seqState = .idle)
      ∧ (s.seqState ≠ .idle → t.seqState = .idle → (∀ cfg rest, s.agenda ≠ .rst cfg :: rest) →
          ∃ r, t.responses = s.responses ++ [r])

/-- 42_command_protocol.md R170, R183: while a request is in progress no step takes another: the request registers stay, and
the host's channel loses nothing. -/
def Obligations.NoRequestIsTakenWhileBusy : Prop :=
  ∀ s t : State, step s = .next t → s.seqState ≠ .idle → (∀ cfg rest, s.agenda ≠ .rst cfg :: rest) →
    (∃ more, t.hostq = s.hostq ++ more) ∧ t.reqKind = s.reqKind ∧ t.reqCmd = s.reqCmd ∧ t.reqTimeout = s.reqTimeout
      ∧ t.reqA8 = s.reqA8 ∧ t.reqA16 = s.reqA16 ∧ t.reqA32 = s.reqA32 ∧ t.reqFtype = s.reqFtype
end

