-- ==== Sys2Proof/Laws/Codec.lean ====
section
/-! SUPPORT. Lemmas about byte order, the checksum and the parts of a frame. -/

namespace Sys2Proof

theorem u16_toNat (h l : Byte) : (u16 h l).toNat = h.toNat * 256 + l.toNat := by
  rw [u16, BitVec.toNat_append, ← Nat.shiftLeft_add_eq_or_of_lt l.isLt, Nat.shiftLeft_eq]

theorem extract_hi_toNat (v : Half) : (v.extractLsb' 8 8).toNat = v.toNat / 256 := by
  have := v.isLt
  simp [BitVec.extractLsb'_toNat, Nat.shiftRight_eq_div_pow]; omega

theorem extract_lo_toNat (v : Half) : (v.extractLsb' 0 8).toNat = v.toNat % 256 := by
  simp [BitVec.extractLsb'_toNat]

@[simp] theorem u16_extract (v : Half) : u16 (v.extractLsb' 8 8) (v.extractLsb' 0 8) = v := by
  apply BitVec.eq_of_toNat_eq
  rw [u16_toNat, extract_hi_toNat, extract_lo_toNat]; omega

theorem u16_inj {h l h' l' : Byte} (e : u16 h l = u16 h' l') : h = h' ∧ l = l' := by
  have e := congrArg BitVec.toNat e
  rw [u16_toNat, u16_toNat] at e
  have := l.isLt; have := l'.isLt
  constructor <;> apply BitVec.eq_of_toNat_eq <;> omega

@[simp] theorem be16_u16 (h l : Byte) : be16 (u16 h l) = [h, l] := by
  obtain ⟨a, b⟩ := u16_inj (u16_extract (u16 h l))
  simp only [be16, a, b]

theorem u32_toNat (b0 b1 b2 b3 : Byte) :
    (u32 b0 b1 b2 b3).toNat = b0.toNat * 2 ^ 24 + b1.toNat * 2 ^ 16 + b2.toNat * 2 ^ 8 + b3.toNat := by
  have h : (u32 b0 b1 b2 b3).toNat = (u16 b0 b1).toNat * 2 ^ 16 + (u16 b2 b3).toNat := by
    rw [u32, BitVec.toNat_append, ← Nat.shiftLeft_add_eq_or_of_lt (u16 b2 b3).isLt, Nat.shiftLeft_eq]
  rw [h, u16_toNat, u16_toNat]; omega

@[simp] theorem u32_extract (v : Word) :
    u32 (v.extractLsb' 24 8) (v.extractLsb' 16 8) (v.extractLsb' 8 8) (v.extractLsb' 0 8) = v := by
  apply BitVec.eq_of_toNat_eq
  have := v.isLt
  rw [u32_toNat]
  simp only [BitVec.extractLsb'_toNat, Nat.shiftRight_eq_div_pow]
  omega

theorem u32_inj {a b c d a' b' c' d' : Byte} (e : u32 a b c d = u32 a' b' c' d') :
    a = a' ∧ b = b' ∧ c = c' ∧ d = d' := by
  have e := congrArg BitVec.toNat e
  rw [u32_toNat, u32_toNat] at e
  have := b.isLt; have := c.isLt; have := d.isLt
  have := b'.isLt; have := c'.isLt; have := d'.isLt
  refine ⟨?_, ?_, ?_, ?_⟩ <;> apply BitVec.eq_of_toNat_eq <;> omega

@[simp] theorem be32_u32 (a b c d : Byte) : be32 (u32 a b c d) = [a, b, c, d] := by
  obtain ⟨h1, h2, h3, h4⟩ := u32_inj (u32_extract (u32 a b c d))
  simp only [be32, h1, h2, h3, h4]

@[simp] theorem be16_length (v : Half) : (be16 v).length = 2 := rfl

@[simp] theorem be32_length (v : Word) : (be32 v).length = 4 := rfl

@[simp] theorem sum8_nil : sum8 [] = 0 := rfl

@[simp] theorem sum8_cons (b : Byte) (xs : List Byte) : sum8 (b :: xs) = b.toNat + sum8 xs := by simp [sum8]

@[simp] theorem sum8_append (xs ys : List Byte) : sum8 (xs ++ ys) = sum8 xs + sum8 ys := by simp [sum8]

/-- The running checksum: one more payload byte adds its value (41_stream_assembler.md R139). -/
theorem cs16_append (h l ty b : Byte) (xs : List Byte) : cs16 h l ty (xs ++ [b]) = cs16 h l ty xs + zext16 b := by
  apply BitVec.eq_of_toNat_eq
  simp only [cs16, sum8_append, sum8_cons, sum8_nil, zext16, BitVec.toNat_add, BitVec.toNat_ofNat, BitVec.toNat_setWidth]
  have := b.isLt; omega

/-- The running checksum after the three header bytes (R136 to R138). -/
theorem cs16_nil (h l ty : Byte) : cs16 h l ty [] = zext16 ty + zext16 h + zext16 l := by
  apply BitVec.eq_of_toNat_eq
  simp only [cs16, sum8_nil, zext16, BitVec.toNat_add, BitVec.toNat_ofNat, BitVec.toNat_setWidth]
  have := h.isLt; have := l.isLt; have := ty.isLt; omega

theorem wireLength_toNat {p : List Byte} (h : p.length ≤ wirePayloadMax) : (wireLength p).toNat = p.length + 2 := by
  simp only [wirePayloadMax] at h
  simp only [wireLength, BitVec.toNat_ofNat]; omega

/-- A frame, header byte by header byte. -/
theorem encodeFrame_eq (a : Word) (ty : Byte) (p : List Byte) :
    encodeFrame a ty p
      = startHi :: startLo :: a.extractLsb' 24 8 :: a.extractLsb' 16 8 :: a.extractLsb' 8 8 :: a.extractLsb' 0 8 :: ty
          :: (wireLength p).extractLsb' 8 8 :: (wireLength p).extractLsb' 0 8 :: (p ++ be16 (frameChecksum ty p)) := by
  simp [encodeFrame, be32, be16]

@[simp] theorem encodeFrame_length (a : Word) (ty : Byte) (p : List Byte) : (encodeFrame a ty p).length = 11 + p.length := by
  simp [encodeFrame_eq]; omega

/-- The selector survives the trip through the header. -/
@[simp] theorem headerOf_selector (c : BitVec 4) (k : BitVec 2) (f : Fields) : (Request.mk (headerOf c k) f).selector = c := by
  revert c k; simp only [Request.selector]; decide

@[simp] theorem headerOf_kind (c : BitVec 4) (k : BitVec 2) (f : Fields) : (Request.mk (headerOf c k) f).kind = k := by
  revert c k; simp only [Request.kind]; decide

@[simp] theorem headerOf_reserved (c : BitVec 4) (k : BitVec 2) (f : Fields) : (Request.mk (headerOf c k) f).reserved = 0 := by
  revert c k; simp only [Request.reserved]; decide

/-- A header without reserved bits is its fields put together. -/
theorem headerOf_fields (r : Request) (h : r.reserved = 0) : headerOf r.selector r.kind = r.hdr := by
  obtain ⟨hdr, f⟩ := r
  simp only [Request.reserved, Request.selector, Request.kind] at *
  revert hdr; decide

@[simp] theorem ofSelector_selector (c : Command) : Command.ofSelector c.selector = some c := by cases c <;> rfl

@[simp] theorem ofTableOpcode_tableOpcode (c : Command) : Command.ofTableOpcode c.tableOpcode = some c := by cases c <;> rfl

theorem ofSelector_eq_some {n : BitVec 4} {c : Command} (h : Command.ofSelector n = some c) : n = c.selector := by
  revert n c; intro n c; revert n; cases c <;> decide

theorem ofSelector_eq_none {n : BitVec 4} : Command.ofSelector n = none ↔ 12 < n.toNat := by revert n; decide

end Sys2Proof
end

