-- ==== Sys2Proof/Laws/Ops.lean ====
section
/-! SUPPORT. Lemmas about the named operations: reads that may find no value, and the buffers. -/

namespace Sys2Proof.Machine

variable {α β : Type}

@[simp] theorem ok_bind {ε : Type} (a : α) (f : α → Except ε β) : (Except.ok a >>= f) = f a := rfl

@[simp] theorem error_bind {ε : Type} (e : ε) (f : α → Except ε β) : (Except.error e >>= f) = .error e := rfl

/-- A sequence of effects answers only if its first part answers. -/
theorem bind_eq_ok {ε : Type} {x : Except ε α} {f : α → Except ε β} {b : β} :
    (x >>= f) = .ok b ↔ ∃ a, x = .ok a ∧ f a = .ok b := by
  cases x <;> simp

@[simp] theorem need_some (r : RegName) (v : α) : need r (some v) = .ok v := rfl

@[simp] theorem need_none (r : RegName) : need r (none : Option α) = .error (.noValue r) := rfl

/-- A read answers exactly the value the register holds. -/
@[simp] theorem need_eq_ok {r : RegName} {o : Option α} {v : α} : need r o = .ok v ↔ o = some v := by
  cases o <;> simp [need]

@[simp] theorem toOutcome_ok (s : State) : toOutcome (.ok s) = .next s := rfl

@[simp] theorem toOutcome_error (f : Fault) : toOutcome (.error f) = .fault f := rfl

@[simp] theorem toOutcome_eq_next {e : Except Fault State} {t : State} : toOutcome e = .next t ↔ e = .ok t := by
  cases e <;> simp [toOutcome]

@[simp] theorem toOutcome_eq_fault {e : Except Fault State} {f : Fault} : toOutcome e = .fault f ↔ e = .error f := by
  cases e <;> simp [toOutcome]

/-- What the first elements of a buffer read as. -/
theorem readFirst_eq_some {n : Nat} {buf : List (Option Byte)} {xs : List Byte} :
    readFirst n buf = some xs ↔ buf.take n = xs.map some ∧ xs.length = n := by
  induction n generalizing buf xs with
  | zero => cases xs <;> simp [readFirst]
  | succ n ih =>
    match buf with
    | [] => cases xs <;> simp [readFirst]
    | none :: rest => cases xs <;> simp [readFirst]
    | some b :: rest =>
      cases xs with
      | nil => simp [readFirst]
      | cons x xs => simp [readFirst, ih]; tauto

/-- Writing the next element of a buffer extends what its first elements read as (41_stream_assembler.md R139). -/
theorem readFirst_set {i : Nat} {buf : List (Option Byte)} {xs : List Byte} (b : Byte)
    (h : readFirst i buf = some xs) (hi : i < buf.length) :
    readFirst (i + 1) (buf.set i (some b)) = some (xs ++ [b]) := by
  rw [readFirst_eq_some] at h ⊢
  refine ⟨?_, by simp [h.2]⟩
  rw [List.take_succ_eq_append_getElem (by simpa using hi)]
  simp [List.take_set_of_le, h.1]

/-- A buffer whose front is a list of bytes reads as that list. -/
theorem readAt_of_take {buf : List (Option Byte)} {xs : List Byte} {i : Nat}
    (h : buf.take xs.length = xs.map some) (hi : i < xs.length) : readAt buf i = xs[i]? := by
  have e := congrArg (·[i]?) h
  simp only [List.getElem?_take, hi, if_true, List.getElem?_map] at e
  simp [readAt, e, List.getElem?_eq_getElem hi]

/-- The address register has its value once the last byte joins the three before it (41_stream_assembler.md R135). -/
theorem Bytes4.set_three {w : Bytes4} (b : Byte) (h0 : w.b0.isSome) (h1 : w.b1.isSome) (h2 : w.b2.isSome) :
    (w.set 3 b).word.isSome := by
  obtain ⟨_ | _, _ | _, _ | _, _⟩ := w <;> simp_all [Bytes4.set, Bytes4.word]

@[simp] theorem holds_latch (r : Request) (s : State) : (s.latch r).holds r = true := by simp [State.holds, State.latch]

/-- Two states with the same request registers hold the same requests. -/
theorem holds_congr {s t : State} {r : Request} (h : t.reqKind = s.reqKind) (h1 : t.reqCmd = s.reqCmd)
    (h2 : t.reqTimeout = s.reqTimeout) (h3 : t.reqA8 = s.reqA8) (h4 : t.reqA16 = s.reqA16) (h5 : t.reqA32 = s.reqA32)
    (h6 : t.reqFtype = s.reqFtype) : t.holds r = s.holds r := by
  simp [State.holds, *]

/-- The registers of a request that is held. -/
theorem holds_iff {s : State} {r : Request} : s.holds r = true ↔
    s.reqKind = some r.kind ∧ s.reqCmd = some r.selector ∧ s.reqTimeout = some r.fields.timeout
      ∧ s.reqA8 = some r.fields.a8 ∧ s.reqA16 = some r.fields.a16 ∧ s.reqA32 = some r.fields.a32
      ∧ s.reqFtype = some r.fields.ftype := by
  simp [State.holds, and_assoc]

end Sys2Proof.Machine
end

