-- ==== Sys2Proof/Laws/State.lean ====
section
/-! SUPPORT. One lemma per field per update of the state: what each named operation of Ops.lean writes and what
it leaves. -/

namespace Sys2Proof.Machine

section latch
/-! Copying the offered request (42_command_protocol.md R170). -/

variable (s : State) (r : Request)

@[simp] theorem State.latch_cfg : (s.latch r).cfg = s.cfg := rfl
@[simp] theorem State.latch_seqState : (s.latch r).seqState = s.seqState := rfl
@[simp] theorem State.latch_reqKind : (s.latch r).reqKind = some r.kind := rfl
@[simp] theorem State.latch_reqCmd : (s.latch r).reqCmd = some r.selector := rfl
@[simp] theorem State.latch_reqTimeout : (s.latch r).reqTimeout = some r.fields.timeout := rfl
@[simp] theorem State.latch_reqA8 : (s.latch r).reqA8 = some r.fields.a8 := rfl
@[simp] theorem State.latch_reqA16 : (s.latch r).reqA16 = some r.fields.a16 := rfl
@[simp] theorem State.latch_reqA32 : (s.latch r).reqA32 = some r.fields.a32 := rfl
@[simp] theorem State.latch_reqFtype : (s.latch r).reqFtype = some r.fields.ftype := rfl
@[simp] theorem State.latch_txBuf : (s.latch r).txBuf = s.txBuf := rfl
@[simp] theorem State.latch_txLen : (s.latch r).txLen = s.txLen := rfl
@[simp] theorem State.latch_txIdx : (s.latch r).txIdx = s.txIdx := rfl
@[simp] theorem State.latch_prs : (s.latch r).prs = s.prs := rfl
@[simp] theorem State.latch_prsTimeout : (s.latch r).prsTimeout = s.prsTimeout := rfl
@[simp] theorem State.latch_elapsedMs : (s.latch r).elapsedMs = s.elapsedMs := rfl
@[simp] theorem State.latch_address : (s.latch r).address = s.address := rfl
@[simp] theorem State.latch_password : (s.latch r).password = s.password := rfl
@[simp] theorem State.latch_matchId : (s.latch r).matchId = s.matchId := rfl
@[simp] theorem State.latch_confidence : (s.latch r).confidence = s.confidence := rfl
@[simp] theorem State.latch_matchValid : (s.latch r).matchValid = s.matchValid := rfl
@[simp] theorem State.latch_templateCount : (s.latch r).templateCount = s.templateCount := rfl
@[simp] theorem State.latch_countValid : (s.latch r).countValid = s.countValid := rfl
@[simp] theorem State.latch_rxq : (s.latch r).rxq = s.rxq := rfl
@[simp] theorem State.latch_txStream : (s.latch r).txStream = s.txStream := rfl
@[simp] theorem State.latch_txReady : (s.latch r).txReady = s.txReady := rfl
@[simp] theorem State.latch_hostq : (s.latch r).hostq = s.hostq := rfl
@[simp] theorem State.latch_responses : (s.latch r).responses = s.responses := rfl
@[simp] theorem State.latch_agenda : (s.latch r).agenda = s.agenda := rfl

end latch

section respond
/-! Responding (60_exceptions.md R240). -/

variable (s : State) (r : Response)

@[simp] theorem State.respond_cfg : (s.respond r).cfg = s.cfg := rfl
@[simp] theorem State.respond_seqState : (s.respond r).seqState = .idle := rfl
@[simp] theorem State.respond_reqKind : (s.respond r).reqKind = s.reqKind := rfl
@[simp] theorem State.respond_reqCmd : (s.respond r).reqCmd = s.reqCmd := rfl
@[simp] theorem State.respond_reqTimeout : (s.respond r).reqTimeout = s.reqTimeout := rfl
@[simp] theorem State.respond_reqA8 : (s.respond r).reqA8 = s.reqA8 := rfl
@[simp] theorem State.respond_reqA16 : (s.respond r).reqA16 = s.reqA16 := rfl
@[simp] theorem State.respond_reqA32 : (s.respond r).reqA32 = s.reqA32 := rfl
@[simp] theorem State.respond_reqFtype : (s.respond r).reqFtype = s.reqFtype := rfl
@[simp] theorem State.respond_txBuf : (s.respond r).txBuf = s.txBuf := rfl
@[simp] theorem State.respond_txLen : (s.respond r).txLen = s.txLen := rfl
@[simp] theorem State.respond_txIdx : (s.respond r).txIdx = s.txIdx := rfl
@[simp] theorem State.respond_prs : (s.respond r).prs = s.prs := rfl
@[simp] theorem State.respond_prsTimeout : (s.respond r).prsTimeout = s.prsTimeout := rfl
@[simp] theorem State.respond_elapsedMs : (s.respond r).elapsedMs = s.elapsedMs := rfl
@[simp] theorem State.respond_address : (s.respond r).address = s.address := rfl
@[simp] theorem State.respond_password : (s.respond r).password = s.password := rfl
@[simp] theorem State.respond_matchId : (s.respond r).matchId = s.matchId := rfl
@[simp] theorem State.respond_confidence : (s.respond r).confidence = s.confidence := rfl
@[simp] theorem State.respond_matchValid : (s.respond r).matchValid = s.matchValid := rfl
@[simp] theorem State.respond_templateCount : (s.respond r).templateCount = s.templateCount := rfl
@[simp] theorem State.respond_countValid : (s.respond r).countValid = s.countValid := rfl
@[simp] theorem State.respond_rxq : (s.respond r).rxq = s.rxq := rfl
@[simp] theorem State.respond_txStream : (s.respond r).txStream = s.txStream := rfl
@[simp] theorem State.respond_txReady : (s.respond r).txReady = s.txReady := rfl
@[simp] theorem State.respond_hostq : (s.respond r).hostq = s.hostq := rfl
@[simp] theorem State.respond_responses : (s.respond r).responses = s.responses ++ [r] := rfl
@[simp] theorem State.respond_agenda : (s.respond r).agenda = s.agenda := rfl

end respond

section conclude
/-! Ending a parsed request (42_command_protocol.md R177). -/

variable (s : State) (r : Response)

@[simp] theorem State.conclude_cfg : (s.conclude r).cfg = s.cfg := rfl
@[simp] theorem State.conclude_seqState : (s.conclude r).seqState = .idle := rfl
@[simp] theorem State.conclude_reqKind : (s.conclude r).reqKind = s.reqKind := rfl
@[simp] theorem State.conclude_reqCmd : (s.conclude r).reqCmd = s.reqCmd := rfl
@[simp] theorem State.conclude_reqTimeout : (s.conclude r).reqTimeout = s.reqTimeout := rfl
@[simp] theorem State.conclude_reqA8 : (s.conclude r).reqA8 = s.reqA8 := rfl
@[simp] theorem State.conclude_reqA16 : (s.conclude r).reqA16 = s.reqA16 := rfl
@[simp] theorem State.conclude_reqA32 : (s.conclude r).reqA32 = s.reqA32 := rfl
@[simp] theorem State.conclude_reqFtype : (s.conclude r).reqFtype = s.reqFtype := rfl
@[simp] theorem State.conclude_txBuf : (s.conclude r).txBuf = s.txBuf := rfl
@[simp] theorem State.conclude_txLen : (s.conclude r).txLen = s.txLen := rfl
@[simp] theorem State.conclude_txIdx : (s.conclude r).txIdx = s.txIdx := rfl
@[simp] theorem State.conclude_prs : (s.conclude r).prs = { s.prs with state := .off } := rfl
@[simp] theorem State.conclude_prsTimeout : (s.conclude r).prsTimeout = s.prsTimeout := rfl
@[simp] theorem State.conclude_elapsedMs : (s.conclude r).elapsedMs = s.elapsedMs := rfl
@[simp] theorem State.conclude_address : (s.conclude r).address = s.address := rfl
@[simp] theorem State.conclude_password : (s.conclude r).password = s.password := rfl
@[simp] theorem State.conclude_matchId : (s.conclude r).matchId = s.matchId := rfl
@[simp] theorem State.conclude_confidence : (s.conclude r).confidence = s.confidence := rfl
@[simp] theorem State.conclude_matchValid : (s.conclude r).matchValid = s.matchValid := rfl
@[simp] theorem State.conclude_templateCount : (s.conclude r).templateCount = s.templateCount := rfl
@[simp] theorem State.conclude_countValid : (s.conclude r).countValid = s.countValid := rfl
@[simp] theorem State.conclude_rxq : (s.conclude r).rxq = s.rxq := rfl
@[simp] theorem State.conclude_txStream : (s.conclude r).txStream = s.txStream := rfl
@[simp] theorem State.conclude_txReady : (s.conclude r).txReady = s.txReady := rfl
@[simp] theorem State.conclude_hostq : (s.conclude r).hostq = s.hostq := rfl
@[simp] theorem State.conclude_responses : (s.conclude r).responses = s.responses ++ [r] := rfl
@[simp] theorem State.conclude_agenda : (s.conclude r).agenda = s.agenda := rfl

end conclude

section startTransmit
/-! Starting a transmission (42_command_protocol.md R174). -/

variable (s : State) (f : List Byte)

@[simp] theorem State.startTransmit_cfg : (s.startTransmit f).cfg = s.cfg := rfl
@[simp] theorem State.startTransmit_seqState : (s.startTransmit f).seqState = .tx := rfl
@[simp] theorem State.startTransmit_reqKind : (s.startTransmit f).reqKind = s.reqKind := rfl
@[simp] theorem State.startTransmit_reqCmd : (s.startTransmit f).reqCmd = s.reqCmd := rfl
@[simp] theorem State.startTransmit_reqTimeout : (s.startTransmit f).reqTimeout = s.reqTimeout := rfl
@[simp] theorem State.startTransmit_reqA8 : (s.startTransmit f).reqA8 = s.reqA8 := rfl
@[simp] theorem State.startTransmit_reqA16 : (s.startTransmit f).reqA16 = s.reqA16 := rfl
@[simp] theorem State.startTransmit_reqA32 : (s.startTransmit f).reqA32 = s.reqA32 := rfl
@[simp] theorem State.startTransmit_reqFtype : (s.startTransmit f).reqFtype = s.reqFtype := rfl
@[simp] theorem State.startTransmit_txBuf : (s.startTransmit f).txBuf = f.map some ++ s.txBuf.drop f.length := rfl
@[simp] theorem State.startTransmit_txLen : (s.startTransmit f).txLen = BitVec.ofNat 17 f.length := rfl
@[simp] theorem State.startTransmit_txIdx : (s.startTransmit f).txIdx = 0 := rfl
@[simp] theorem State.startTransmit_prs : (s.startTransmit f).prs = s.prs := rfl
@[simp] theorem State.startTransmit_prsTimeout : (s.startTransmit f).prsTimeout = s.prsTimeout := rfl
@[simp] theorem State.startTransmit_elapsedMs : (s.startTransmit f).elapsedMs = s.elapsedMs := rfl
@[simp] theorem State.startTransmit_address : (s.startTransmit f).address = s.address := rfl
@[simp] theorem State.startTransmit_password : (s.startTransmit f).password = s.password := rfl
@[simp] theorem State.startTransmit_matchId : (s.startTransmit f).matchId = s.matchId := rfl
@[simp] theorem State.startTransmit_confidence : (s.startTransmit f).confidence = s.confidence := rfl
@[simp] theorem State.startTransmit_matchValid : (s.startTransmit f).matchValid = s.matchValid := rfl
@[simp] theorem State.startTransmit_templateCount : (s.startTransmit f).templateCount = s.templateCount := rfl
@[simp] theorem State.startTransmit_countValid : (s.startTransmit f).countValid = s.countValid := rfl
@[simp] theorem State.startTransmit_rxq : (s.startTransmit f).rxq = s.rxq := rfl
@[simp] theorem State.startTransmit_txStream : (s.startTransmit f).txStream = s.txStream := rfl
@[simp] theorem State.startTransmit_txReady : (s.startTransmit f).txReady = s.txReady := rfl
@[simp] theorem State.startTransmit_hostq : (s.startTransmit f).hostq = s.hostq := rfl
@[simp] theorem State.startTransmit_responses : (s.startTransmit f).responses = s.responses := rfl
@[simp] theorem State.startTransmit_agenda : (s.startTransmit f).agenda = s.agenda := rfl

end startTransmit

section startParse
/-! Starting a parse (41_stream_assembler.md R131). -/

variable (s : State) (t : Word)

@[simp] theorem State.startParse_cfg : (s.startParse t).cfg = s.cfg := rfl
@[simp] theorem State.startParse_seqState : (s.startParse t).seqState = .rx := rfl
@[simp] theorem State.startParse_reqKind : (s.startParse t).reqKind = s.reqKind := rfl
@[simp] theorem State.startParse_reqCmd : (s.startParse t).reqCmd = s.reqCmd := rfl
@[simp] theorem State.startParse_reqTimeout : (s.startParse t).reqTimeout = s.reqTimeout := rfl
@[simp] theorem State.startParse_reqA8 : (s.startParse t).reqA8 = s.reqA8 := rfl
@[simp] theorem State.startParse_reqA16 : (s.startParse t).reqA16 = s.reqA16 := rfl
@[simp] theorem State.startParse_reqA32 : (s.startParse t).reqA32 = s.reqA32 := rfl
@[simp] theorem State.startParse_reqFtype : (s.startParse t).reqFtype = s.reqFtype := rfl
@[simp] theorem State.startParse_txBuf : (s.startParse t).txBuf = s.txBuf := rfl
@[simp] theorem State.startParse_txLen : (s.startParse t).txLen = s.txLen := rfl
@[simp] theorem State.startParse_txIdx : (s.startParse t).txIdx = s.txIdx := rfl
@[simp] theorem State.startParse_prs : (s.startParse t).prs = { Parser.reset s.cfg.maxPayload with state := .waitStartHi } := rfl
@[simp] theorem State.startParse_prsTimeout : (s.startParse t).prsTimeout = some t := rfl
@[simp] theorem State.startParse_elapsedMs : (s.startParse t).elapsedMs = 0 := rfl
@[simp] theorem State.startParse_address : (s.startParse t).address = s.address := rfl
@[simp] theorem State.startParse_password : (s.startParse t).password = s.password := rfl
@[simp] theorem State.startParse_matchId : (s.startParse t).matchId = s.matchId := rfl
@[simp] theorem State.startParse_confidence : (s.startParse t).confidence = s.confidence := rfl
@[simp] theorem State.startParse_matchValid : (s.startParse t).matchValid = s.matchValid := rfl
@[simp] theorem State.startParse_templateCount : (s.startParse t).templateCount = s.templateCount := rfl
@[simp] theorem State.startParse_countValid : (s.startParse t).countValid = s.countValid := rfl
@[simp] theorem State.startParse_rxq : (s.startParse t).rxq = s.rxq := rfl
@[simp] theorem State.startParse_txStream : (s.startParse t).txStream = s.txStream := rfl
@[simp] theorem State.startParse_txReady : (s.startParse t).txReady = s.txReady := rfl
@[simp] theorem State.startParse_hostq : (s.startParse t).hostq = s.hostq := rfl
@[simp] theorem State.startParse_responses : (s.startParse t).responses = s.responses := rfl
@[simp] theorem State.startParse_agenda : (s.startParse t).agenda = s.agenda := rfl

end startParse

section receive
/-! Bytes joining the receive queue (10_state.md R36). -/

variable (s : State) (bs : List Byte)

@[simp] theorem State.receive_cfg : (s.receive bs).cfg = s.cfg := rfl
@[simp] theorem State.receive_seqState : (s.receive bs).seqState = s.seqState := rfl
@[simp] theorem State.receive_reqKind : (s.receive bs).reqKind = s.reqKind := rfl
@[simp] theorem State.receive_reqCmd : (s.receive bs).reqCmd = s.reqCmd := rfl
@[simp] theorem State.receive_reqTimeout : (s.receive bs).reqTimeout = s.reqTimeout := rfl
@[simp] theorem State.receive_reqA8 : (s.receive bs).reqA8 = s.reqA8 := rfl
@[simp] theorem State.receive_reqA16 : (s.receive bs).reqA16 = s.reqA16 := rfl
@[simp] theorem State.receive_reqA32 : (s.receive bs).reqA32 = s.reqA32 := rfl
@[simp] theorem State.receive_reqFtype : (s.receive bs).reqFtype = s.reqFtype := rfl
@[simp] theorem State.receive_txBuf : (s.receive bs).txBuf = s.txBuf := rfl
@[simp] theorem State.receive_txLen : (s.receive bs).txLen = s.txLen := rfl
@[simp] theorem State.receive_txIdx : (s.receive bs).txIdx = s.txIdx := rfl
@[simp] theorem State.receive_prs : (s.receive bs).prs = s.prs := rfl
@[simp] theorem State.receive_prsTimeout : (s.receive bs).prsTimeout = s.prsTimeout := rfl
@[simp] theorem State.receive_elapsedMs : (s.receive bs).elapsedMs = s.elapsedMs := rfl
@[simp] theorem State.receive_address : (s.receive bs).address = s.address := rfl
@[simp] theorem State.receive_password : (s.receive bs).password = s.password := rfl
@[simp] theorem State.receive_matchId : (s.receive bs).matchId = s.matchId := rfl
@[simp] theorem State.receive_confidence : (s.receive bs).confidence = s.confidence := rfl
@[simp] theorem State.receive_matchValid : (s.receive bs).matchValid = s.matchValid := rfl
@[simp] theorem State.receive_templateCount : (s.receive bs).templateCount = s.templateCount := rfl
@[simp] theorem State.receive_countValid : (s.receive bs).countValid = s.countValid := rfl
@[simp] theorem State.receive_rxq : (s.receive bs).rxq = s.rxq ++ bs := rfl
@[simp] theorem State.receive_txStream : (s.receive bs).txStream = s.txStream := rfl
@[simp] theorem State.receive_txReady : (s.receive bs).txReady = s.txReady := rfl
@[simp] theorem State.receive_hostq : (s.receive bs).hostq = s.hostq := rfl
@[simp] theorem State.receive_responses : (s.receive bs).responses = s.responses := rfl
@[simp] theorem State.receive_agenda : (s.receive bs).agenda = s.agenda := rfl

end receive

section transmit
/-! Writing one byte (00_scope.md R11). -/

variable (s : State) (b : Byte)

@[simp] theorem State.transmit_cfg : (s.transmit b).cfg = s.cfg := rfl
@[simp] theorem State.transmit_seqState : (s.transmit b).seqState = s.seqState := rfl
@[simp] theorem State.transmit_reqKind : (s.transmit b).reqKind = s.reqKind := rfl
@[simp] theorem State.transmit_reqCmd : (s.transmit b).reqCmd = s.reqCmd := rfl
@[simp] theorem State.transmit_reqTimeout : (s.transmit b).reqTimeout = s.reqTimeout := rfl
@[simp] theorem State.transmit_reqA8 : (s.transmit b).reqA8 = s.reqA8 := rfl
@[simp] theorem State.transmit_reqA16 : (s.transmit b).reqA16 = s.reqA16 := rfl
@[simp] theorem State.transmit_reqA32 : (s.transmit b).reqA32 = s.reqA32 := rfl
@[simp] theorem State.transmit_reqFtype : (s.transmit b).reqFtype = s.reqFtype := rfl
@[simp] theorem State.transmit_txBuf : (s.transmit b).txBuf = s.txBuf := rfl
@[simp] theorem State.transmit_txLen : (s.transmit b).txLen = s.txLen := rfl
@[simp] theorem State.transmit_txIdx : (s.transmit b).txIdx = s.txIdx := rfl
@[simp] theorem State.transmit_prs : (s.transmit b).prs = s.prs := rfl
@[simp] theorem State.transmit_prsTimeout : (s.transmit b).prsTimeout = s.prsTimeout := rfl
@[simp] theorem State.transmit_elapsedMs : (s.transmit b).elapsedMs = s.elapsedMs := rfl
@[simp] theorem State.transmit_address : (s.transmit b).address = s.address := rfl
@[simp] theorem State.transmit_password : (s.transmit b).password = s.password := rfl
@[simp] theorem State.transmit_matchId : (s.transmit b).matchId = s.matchId := rfl
@[simp] theorem State.transmit_confidence : (s.transmit b).confidence = s.confidence := rfl
@[simp] theorem State.transmit_matchValid : (s.transmit b).matchValid = s.matchValid := rfl
@[simp] theorem State.transmit_templateCount : (s.transmit b).templateCount = s.templateCount := rfl
@[simp] theorem State.transmit_countValid : (s.transmit b).countValid = s.countValid := rfl
@[simp] theorem State.transmit_rxq : (s.transmit b).rxq = s.rxq := rfl
@[simp] theorem State.transmit_txStream : (s.transmit b).txStream = s.txStream ++ [b] := rfl
@[simp] theorem State.transmit_txReady : (s.transmit b).txReady = s.txReady := rfl
@[simp] theorem State.transmit_hostq : (s.transmit b).hostq = s.hostq := rfl
@[simp] theorem State.transmit_responses : (s.transmit b).responses = s.responses := rfl
@[simp] theorem State.transmit_agenda : (s.transmit b).agenda = s.agenda := rfl

end transmit

section offer
/-! The host queues a request (10_state.md R35). -/

variable (s : State) (l : HostLine)

@[simp] theorem State.offer_cfg : (s.offer l).cfg = s.cfg := rfl
@[simp] theorem State.offer_seqState : (s.offer l).seqState = s.seqState := rfl
@[simp] theorem State.offer_reqKind : (s.offer l).reqKind = s.reqKind := rfl
@[simp] theorem State.offer_reqCmd : (s.offer l).reqCmd = s.reqCmd := rfl
@[simp] theorem State.offer_reqTimeout : (s.offer l).reqTimeout = s.reqTimeout := rfl
@[simp] theorem State.offer_reqA8 : (s.offer l).reqA8 = s.reqA8 := rfl
@[simp] theorem State.offer_reqA16 : (s.offer l).reqA16 = s.reqA16 := rfl
@[simp] theorem State.offer_reqA32 : (s.offer l).reqA32 = s.reqA32 := rfl
@[simp] theorem State.offer_reqFtype : (s.offer l).reqFtype = s.reqFtype := rfl
@[simp] theorem State.offer_txBuf : (s.offer l).txBuf = s.txBuf := rfl
@[simp] theorem State.offer_txLen : (s.offer l).txLen = s.txLen := rfl
@[simp] theorem State.offer_txIdx : (s.offer l).txIdx = s.txIdx := rfl
@[simp] theorem State.offer_prs : (s.offer l).prs = s.prs := rfl
@[simp] theorem State.offer_prsTimeout : (s.offer l).prsTimeout = s.prsTimeout := rfl
@[simp] theorem State.offer_elapsedMs : (s.offer l).elapsedMs = s.elapsedMs := rfl
@[simp] theorem State.offer_address : (s.offer l).address = s.address := rfl
@[simp] theorem State.offer_password : (s.offer l).password = s.password := rfl
@[simp] theorem State.offer_matchId : (s.offer l).matchId = s.matchId := rfl
@[simp] theorem State.offer_confidence : (s.offer l).confidence = s.confidence := rfl
@[simp] theorem State.offer_matchValid : (s.offer l).matchValid = s.matchValid := rfl
@[simp] theorem State.offer_templateCount : (s.offer l).templateCount = s.templateCount := rfl
@[simp] theorem State.offer_countValid : (s.offer l).countValid = s.countValid := rfl
@[simp] theorem State.offer_rxq : (s.offer l).rxq = s.rxq := rfl
@[simp] theorem State.offer_txStream : (s.offer l).txStream = s.txStream := rfl
@[simp] theorem State.offer_txReady : (s.offer l).txReady = s.txReady := rfl
@[simp] theorem State.offer_hostq : (s.offer l).hostq = s.hostq ++ [l] := rfl
@[simp] theorem State.offer_responses : (s.offer l).responses = s.responses := rfl
@[simp] theorem State.offer_agenda : (s.offer l).agenda = s.agenda := rfl

end offer

section setTxReady
/-! The transport sets tx_ready (10_state.md R35). -/

variable (s : State) (b : Bool)

@[simp] theorem State.setTxReady_cfg : (s.setTxReady b).cfg = s.cfg := rfl
@[simp] theorem State.setTxReady_seqState : (s.setTxReady b).seqState = s.seqState := rfl
@[simp] theorem State.setTxReady_reqKind : (s.setTxReady b).reqKind = s.reqKind := rfl
@[simp] theorem State.setTxReady_reqCmd : (s.setTxReady b).reqCmd = s.reqCmd := rfl
@[simp] theorem State.setTxReady_reqTimeout : (s.setTxReady b).reqTimeout = s.reqTimeout := rfl
@[simp] theorem State.setTxReady_reqA8 : (s.setTxReady b).reqA8 = s.reqA8 := rfl
@[simp] theorem State.setTxReady_reqA16 : (s.setTxReady b).reqA16 = s.reqA16 := rfl
@[simp] theorem State.setTxReady_reqA32 : (s.setTxReady b).reqA32 = s.reqA32 := rfl
@[simp] theorem State.setTxReady_reqFtype : (s.setTxReady b).reqFtype = s.reqFtype := rfl
@[simp] theorem State.setTxReady_txBuf : (s.setTxReady b).txBuf = s.txBuf := rfl
@[simp] theorem State.setTxReady_txLen : (s.setTxReady b).txLen = s.txLen := rfl
@[simp] theorem State.setTxReady_txIdx : (s.setTxReady b).txIdx = s.txIdx := rfl
@[simp] theorem State.setTxReady_prs : (s.setTxReady b).prs = s.prs := rfl
@[simp] theorem State.setTxReady_prsTimeout : (s.setTxReady b).prsTimeout = s.prsTimeout := rfl
@[simp] theorem State.setTxReady_elapsedMs : (s.setTxReady b).elapsedMs = s.elapsedMs := rfl
@[simp] theorem State.setTxReady_address : (s.setTxReady b).address = s.address := rfl
@[simp] theorem State.setTxReady_password : (s.setTxReady b).password = s.password := rfl
@[simp] theorem State.setTxReady_matchId : (s.setTxReady b).matchId = s.matchId := rfl
@[simp] theorem State.setTxReady_confidence : (s.setTxReady b).confidence = s.confidence := rfl
@[simp] theorem State.setTxReady_matchValid : (s.setTxReady b).matchValid = s.matchValid := rfl
@[simp] theorem State.setTxReady_templateCount : (s.setTxReady b).templateCount = s.templateCount := rfl
@[simp] theorem State.setTxReady_countValid : (s.setTxReady b).countValid = s.countValid := rfl
@[simp] theorem State.setTxReady_rxq : (s.setTxReady b).rxq = s.rxq := rfl
@[simp] theorem State.setTxReady_txStream : (s.setTxReady b).txStream = s.txStream := rfl
@[simp] theorem State.setTxReady_txReady : (s.setTxReady b).txReady = b := rfl
@[simp] theorem State.setTxReady_hostq : (s.setTxReady b).hostq = s.hostq := rfl
@[simp] theorem State.setTxReady_responses : (s.setTxReady b).responses = s.responses := rfl
@[simp] theorem State.setTxReady_agenda : (s.setTxReady b).agenda = s.agenda := rfl

end setTxReady

section resetFpe
/-! Reset (70_reset_and_hazards.md R270, R271). -/

variable (s : State) (c : Config)

@[simp] theorem State.resetFpe_cfg : (s.resetFpe c).cfg = c := rfl
@[simp] theorem State.resetFpe_seqState : (s.resetFpe c).seqState = .idle := rfl
@[simp] theorem State.resetFpe_reqKind : (s.resetFpe c).reqKind = none := rfl
@[simp] theorem State.resetFpe_reqCmd : (s.resetFpe c).reqCmd = none := rfl
@[simp] theorem State.resetFpe_reqTimeout : (s.resetFpe c).reqTimeout = none := rfl
@[simp] theorem State.resetFpe_reqA8 : (s.resetFpe c).reqA8 = none := rfl
@[simp] theorem State.resetFpe_reqA16 : (s.resetFpe c).reqA16 = none := rfl
@[simp] theorem State.resetFpe_reqA32 : (s.resetFpe c).reqA32 = none := rfl
@[simp] theorem State.resetFpe_reqFtype : (s.resetFpe c).reqFtype = none := rfl
@[simp] theorem State.resetFpe_txBuf : (s.resetFpe c).txBuf = List.replicate (11 + c.maxPayload) none := rfl
@[simp] theorem State.resetFpe_txLen : (s.resetFpe c).txLen = 0 := rfl
@[simp] theorem State.resetFpe_txIdx : (s.resetFpe c).txIdx = 0 := rfl
@[simp] theorem State.resetFpe_prs : (s.resetFpe c).prs = Parser.reset c.maxPayload := rfl
@[simp] theorem State.resetFpe_prsTimeout : (s.resetFpe c).prsTimeout = none := rfl
@[simp] theorem State.resetFpe_elapsedMs : (s.resetFpe c).elapsedMs = 0 := rfl
@[simp] theorem State.resetFpe_address : (s.resetFpe c).address = c.initAddress := rfl
@[simp] theorem State.resetFpe_password : (s.resetFpe c).password = c.initPassword := rfl
@[simp] theorem State.resetFpe_matchId : (s.resetFpe c).matchId = none := rfl
@[simp] theorem State.resetFpe_confidence : (s.resetFpe c).confidence = none := rfl
@[simp] theorem State.resetFpe_matchValid : (s.resetFpe c).matchValid = false := rfl
@[simp] theorem State.resetFpe_templateCount : (s.resetFpe c).templateCount = none := rfl
@[simp] theorem State.resetFpe_countValid : (s.resetFpe c).countValid = false := rfl
@[simp] theorem State.resetFpe_rxq : (s.resetFpe c).rxq = s.rxq := rfl
@[simp] theorem State.resetFpe_txStream : (s.resetFpe c).txStream = s.txStream := rfl
@[simp] theorem State.resetFpe_txReady : (s.resetFpe c).txReady = s.txReady := rfl
@[simp] theorem State.resetFpe_hostq : (s.resetFpe c).hostq = s.hostq := rfl
@[simp] theorem State.resetFpe_responses : (s.resetFpe c).responses = s.responses := rfl
@[simp] theorem State.resetFpe_agenda : (s.resetFpe c).agenda = s.agenda := rfl

end resetFpe

end Sys2Proof.Machine
end

