-- ==== Sys2Proof/Laws/FrameParser.lean ====
section
/-! SUPPORT. Lemmas about the Frame Parser: what FEED answers in each state, that it keeps the parser's part of
the invariant, and what the clock and the timeout do. -/

namespace Sys2Proof.Machine

variable {m : Nat} {p : Parser} {b : Byte}

/-- `PRS_N` is the received length less 2 (R138). -/
theorem prsN_toNat {h l : Byte} (h2 : 2 ≤ (u16 h l).toNat) : (u16 h l - 2).toNat = (u16 h l).toNat - 2 := by
  have := (u16 h l).isLt
  simp [BitVec.toNat_sub]; omega

/-- FEED keeps the parser well formed and never stops, in every wait state (41_stream_assembler.md R133 to R141,
R149). -/
theorem feed_wf (hp : p.wf m) (hw : p.state.isWait = true) :
    ∃ q, feed m p b = .ok q ∧ q.wf m ∧ (q.state.isWait = true ∨ q.state = .done ∨ q.state = .err) := by
  obtain ⟨st, idx, addr, ftype, lenHi, lenLo, n, payload, acc, sumHi, err⟩ := p
  obtain ⟨hlen, hs⟩ := hp
  cases st <;> simp only [PrsState.isWait, Bool.false_eq_true] at hw <;> simp only [Parser.stateOk] at hs <;>
    simp only [feed]
  case waitStartHi =>
    refine ⟨_, rfl, ?_⟩
    split
    · exact ⟨⟨hlen, trivial⟩, .inl rfl⟩
    · exact ⟨⟨hlen, trivial⟩, .inl rfl⟩
  case waitStartLo =>
    refine ⟨_, rfl, ?_⟩
    split
    · exact ⟨⟨hlen, by simp [Parser.stateOk, Bytes4.written]⟩, .inl rfl⟩
    · exact ⟨⟨hlen, .inl rfl⟩, .inr (.inr rfl)⟩
  case addr =>
    obtain ⟨h3, hb⟩ := hs
    simp only [feedAddr]
    rw [if_neg (by omega)]
    split
    · rename_i hlt
      refine ⟨_, rfl, ⟨hlen, ?_⟩, .inl rfl⟩
      simp only [Parser.stateOk]
      have hi : (idx + 1).toNat = idx.toNat + 1 := by simp [BitVec.toNat_add]; omega
      have : idx.toNat = 0 ∨ idx.toNat = 1 ∨ idx.toNat = 2 := by omega
      rcases this with h | h | h <;> rw [hi] <;> simp [h, Bytes4.written, Bytes4.set] at hb ⊢ <;> simp [hb]
    · refine ⟨_, rfl, ⟨hlen, ?_⟩, .inl rfl⟩
      have h : idx.toNat = 3 := by omega
      simp only [h] at hb
      simpa [Parser.stateOk, h] using Bytes4.set_three b hb.1 hb.2.1 hb.2.2
  case type => exact ⟨_, rfl, ⟨hlen, hs, b, rfl, rfl⟩, .inl rfl⟩
  case lenHi =>
    obtain ⟨ha, ty, rfl, rfl⟩ := hs
    exact ⟨_, rfl, ⟨hlen, ha, ty, b, rfl, rfl, rfl⟩, .inl rfl⟩
  case lenLo =>
    obtain ⟨ha, ty, h, rfl, rfl, rfl⟩ := hs
    simp only [feedLenLo, need_some, ok_bind]
    split
    · exact ⟨_, rfl, ⟨hlen, .inr (.inl rfl)⟩, .inr (.inr rfl)⟩
    split
    · exact ⟨_, rfl, ⟨hlen, .inr (.inr (.inl rfl))⟩, .inr (.inr rfl)⟩
    rename_i h1 h2
    have hn := prsN_toNat (h := h) (l := b) (by omega)
    by_cases he : (u16 h b).toNat = 2
    · simp only [he, if_true]
      refine ⟨_, rfl, ⟨hlen, _, rfl, ha, ty, h, b, [], rfl, rfl, rfl, rfl, by omega, by omega, by omega, ?_, ?_⟩, .inl rfl⟩
      · rw [hn, he]; rfl
      · rw [cs16_nil]
    · simp only [he, if_false]
      refine ⟨_, rfl, ⟨hlen, ⟨ha, ty, h, b, [], rfl, rfl, rfl, rfl, by omega, by omega, by simp, rfl, ?_⟩, _, rfl, ?_⟩, .inl rfl⟩
      · rw [cs16_nil]
      · rw [hn]; simp; omega
  case payload =>
    obtain ⟨⟨ha, ty, h, l, xs, rfl, rfl, rfl, rfl, h2, hmax, hk, hx, rfl⟩, n, hn', hi⟩ := hs
    obtain rfl := Option.some.inj hn'
    have hnn := prsN_toNat (h := h) (l := l) h2
    have hib : idx.toNat < payload.length := by simp only at hlen; omega
    simp only [feedPayload, need_some, ok_bind]
    rw [if_neg (by omega)]
    have hx' := readFirst_set b hx hib
    split
    · rename_i he
      refine ⟨_, rfl, ⟨by simpa using hlen, _, rfl, ha, ty, h, l, xs ++ [b], rfl, rfl, rfl, rfl, h2, hmax, by omega, ?_, ?_⟩,
        .inl rfl⟩
      · rw [← he]; exact hx'
      · rw [cs16_append]
    · rename_i he
      have hi1 : (idx + 1).toNat = idx.toNat + 1 := by simp [BitVec.toNat_add]; omega
      refine ⟨_, rfl, ⟨by simpa using hlen, ⟨ha, ty, h, l, xs ++ [b], rfl, rfl, rfl, rfl, h2, hmax, ?_, ?_, ?_⟩, _, rfl, ?_⟩,
        .inl rfl⟩
      · simp only [hi1]; omega
      · simp only [hi1]; exact hx'
      · rw [cs16_append]
      · simp only [hi1]; omega
  case sumHi => exact ⟨_, rfl, ⟨hlen, rfl, hs⟩, .inl rfl⟩
  case sumLo =>
    obtain ⟨hsum, n, rfl, ha, ty, h, l, xs, rfl, rfl, rfl, hn, h2, hmax, hk, hx, rfl⟩ := hs
    obtain ⟨sh, rfl⟩ := Option.isSome_iff_exists.mp hsum
    simp only [feedSumLo, need_some, ok_bind]
    refine ⟨_, rfl, ?_⟩
    split
    · exact ⟨⟨hlen, n, rfl, ha, ty, h, l, xs, rfl, rfl, rfl, hn, h2, hmax, hk, hx, rfl⟩, .inr (.inl rfl)⟩
    · exact ⟨⟨hlen, .inr (.inr (.inr rfl))⟩, .inr (.inr rfl)⟩

/-- A parse just started is well formed (R131). -/
theorem started_wf (m : Nat) : ({ Parser.reset m with state := .waitStartHi } : Parser).wf m :=
  ⟨by simp [Parser.reset], trivial⟩

/-- A parser out of use is well formed when its buffer has its capacity. -/
theorem off_wf (hp : p.wf m) : ({ p with state := .off } : Parser).wf m := ⟨hp.1, trivial⟩

/-- The frame is what the capture registers hold (R141). -/
theorem frame_eq_ok {fr : Frame} : p.frame = .ok fr ↔
    p.addr.word = some fr.address ∧ p.ftype = some fr.ftype
      ∧ ∃ n, p.n = some n ∧ readFirst n.toNat p.payload = some fr.payload := by
  obtain ⟨a, ty, pl⟩ := fr
  simp only [Parser.frame, bind_eq_ok, need_eq_ok, Except.ok.injEq, Frame.mk.injEq]
  constructor
  · rintro ⟨_, ha, _, ht, n, hn, _, hp, rfl, rfl, rfl⟩; exact ⟨ha, ht, n, hn, hp⟩
  · rintro ⟨ha, ht, n, hn, hp⟩; exact ⟨_, ha, _, ht, n, hn, _, hp, rfl, rfl, rfl⟩

/-- A completed parse has its frame, with a payload within the bound (R141). -/
theorem frame_of_done (hp : p.wf m) (hd : p.state = .done) : ∃ fr, p.frame = .ok fr ∧ fr.payload.length ≤ m := by
  obtain ⟨-, hs⟩ := hp
  simp only [Parser.stateOk, hd] at hs
  obtain ⟨n, hn, ha, ty, h, l, xs, ht, -, -, -, -, hmax, hk, hx, -⟩ := hs
  obtain ⟨a, ha⟩ := Option.isSome_iff_exists.mp ha
  refine ⟨⟨a, ty, xs⟩, by simp [Parser.frame, ha, ht, hn, hx], ?_⟩
  have := (readFirst_eq_some.mp hx).2
  simp only [this]; omega

/-- Feeding two byte lists one after the other (R156). -/
theorem feedAll_append {q : Parser} {xs ys : List Byte} (h : feedAll m p xs = .ok (q, [])) :
    feedAll m p (xs ++ ys) = feedAll m q ys := by
  induction xs generalizing p with
  | nil => simp [feedAll] at h; simp [h]
  | cons x xs ih =>
    simp only [List.cons_append, feedAll] at h ⊢
    by_cases hw : p.state.isWait = true
    · simp only [hw, if_true] at h ⊢
      cases hf : feed m p x with
      | error f => simp [hf] at h
      | ok r => simp only [hf] at h ⊢; exact ih h
    · simp [hw] at h

/-- In a state that is no wait state nothing more is read (R145). -/
theorem feedAll_stop {xs : List Byte} (h : p.state.isWait = false) : feedAll m p xs = .ok (p, xs) := by
  cases xs <;> simp [feedAll, h]

/-- The byte step is FEED on the parser, one byte taken from the queue and nothing else (R132). -/
theorem byteStep_eq_ok {s t : State} {rest : List Byte} : byteStep b rest s = .ok t ↔
    ∃ q, feed s.cfg.maxPayload s.prs b = .ok q ∧ t = { s with prs := q, rxq := rest } := by
  simp only [byteStep, bind_eq_ok, Except.ok.injEq]
  constructor <;> rintro ⟨q, h1, h2⟩ <;> exact ⟨q, h1, h2.symm⟩

theorem parserActive_iff {s : State} : s.parserActive = true ↔ s.seqState = .rx ∧ s.prs.state.isWait = true := by
  simp [State.parserActive]

/-- The Timeout step is enabled by an empty queue and the passed time, in an active parse (R143). -/
theorem timeoutEnabled_of_active {s : State} {t : Word} (ha : s.parserActive = true) (ht : s.prsTimeout = some t) :
    timeoutEnabled s = .ok (decide (s.rxq = [] ∧ t.toNat ≤ s.elapsedMs.toNat)) := by
  simp only [timeoutEnabled, ha, ht, need_some, ok_bind, Bool.true_and]
  cases s.rxq <;> simp

theorem timeoutEnabled_of_inactive {s : State} (ha : s.parserActive = false) : timeoutEnabled s = .ok false := by
  simp [timeoutEnabled, ha]

/-- A tick waits exactly at the poll limit of an enabled Timeout step (R144). -/
theorem tickEnabled_of_active {s : State} {t : Word} (ha : s.parserActive = true) (ht : s.prsTimeout = some t) :
    tickEnabled s
      = .ok (decide (s.rxq = [] ∧ t.toNat ≤ s.elapsedMs.toNat → s.elapsedMs.toNat < pollLimit s.cfg t)) := by
  simp only [tickEnabled, timeoutEnabled_of_active ha ht, ok_bind]
  by_cases h : s.rxq = [] ∧ t.toNat ≤ s.elapsedMs.toNat <;> simp [h, ht]

theorem tickEnabled_of_inactive {s : State} (ha : s.parserActive = false) : tickEnabled s = .ok true := by
  simp [tickEnabled, timeoutEnabled_of_inactive ha]

/-- The count of a tick saturates (R142). -/
theorem tick_elapsed (e : Word) :
    (if e = 0xFFFFFFFF then e else e + 1) = BitVec.ofNat 32 (min (e.toNat + 1) 0xFFFFFFFF) := by
  have := e.isLt
  apply BitVec.eq_of_toNat_eq
  split
  · rename_i h; subst h; rfl
  · rename_i h
    have : e.toNat ≠ 0xFFFFFFFF := fun h' => h (BitVec.eq_of_toNat_eq h')
    simp [BitVec.toNat_add]; omega

end Sys2Proof.Machine
end

