-- ==== Sys2Proof/Laws/PerInstr.lean ====
section
/-! SUPPORT. One statement per instruction: the byte that its row of opcode_table.json matches, under the row's mask, is
the row's match. -/

namespace Sys2Proof.Laws.TableRow

/-- The byte of an encoding that its format's rows are matched on: the opcode byte of a call, the header byte of a record,
the type byte of a frame (30_encoding.md R75, R80, R70). -/
def tableByte : Encoded → Option Byte
  | .host (.call op _) => some op
  | .host (.record r) => some r.hdr
  | .wire bytes => bytes[6]?

/-- Mask and match of an instruction's row. -/
def row : Instr → Byte × Byte
  | .verifyPassword _ => (0xFF, 0x13)
  | .captureImage _ => (0xFF, 0x01)
  | .extractFeatures _ _ => (0xFF, 0x02)
  | .createModel _ => (0xFF, 0x05)
  | .storeModel _ _ => (0xFF, 0x06)
  | .loadModel _ _ _ => (0xFF, 0x07)
  | .uploadModel _ _ => (0xFF, 0x08)
  | .downloadModel _ _ => (0xFF, 0x09)
  | .deleteModel _ _ => (0xFF, 0x0C)
  | .emptyDatabase _ => (0xFF, 0x0D)
  | .fastSearch _ => (0xFF, 0x1B)
  | .getTemplateCount _ => (0xFF, 0x1D)
  | .setPassword _ _ => (0xFF, 0x12)
  | .frameCommand _ _ => (0xFF, 0x01)
  | .frameData _ _ => (0xFF, 0x02)
  | .frameAck _ _ => (0xFF, 0x07)
  | .frameEndOfData _ _ => (0xFF, 0x08)
  | .execute _ _ => (0xC3, 0x00)
  | .sendFrame _ _ => (0xC3, 0x01)
  | .receiveFrame _ _ => (0xC3, 0x02)

/-- The instruction's encoding has its row's byte. -/
def Statement (i : Instr) : Prop := ∃ b, tableByte (encode i) = some b ∧ b &&& (row i).1 = (row i).2

/-- The mask of a HOST_REQ row leaves the request kind. -/
theorem headerOf_mask (c : BitVec 4) (k : BitVec 2) : headerOf c k &&& 0xC3 = (0#6 ++ k) := by revert c k; decide

theorem verifyPassword (timeout : Word) : Statement (.verifyPassword timeout) := ⟨_, rfl, by simp only [row]; decide⟩
theorem captureImage (timeout : Word) : Statement (.captureImage timeout) := ⟨_, rfl, by simp only [row]; decide⟩
theorem extractFeatures (slot : Byte) (timeout : Word) : Statement (.extractFeatures slot timeout) := ⟨_, rfl, by simp only [row]; decide⟩
theorem createModel (timeout : Word) : Statement (.createModel timeout) := ⟨_, rfl, by simp only [row]; decide⟩
theorem storeModel (location : Half) (timeout : Word) : Statement (.storeModel location timeout) := ⟨_, rfl, by simp only [row]; decide⟩
theorem loadModel (location : Half) (buffer : Byte) (timeout : Word) : Statement (.loadModel location buffer timeout) := ⟨_, rfl, by simp only [row]; decide⟩
theorem uploadModel (buffer : Byte) (timeout : Word) : Statement (.uploadModel buffer timeout) := ⟨_, rfl, by simp only [row]; decide⟩
theorem downloadModel (buffer : Byte) (timeout : Word) : Statement (.downloadModel buffer timeout) := ⟨_, rfl, by simp only [row]; decide⟩
theorem deleteModel (location : Half) (timeout : Word) : Statement (.deleteModel location timeout) := ⟨_, rfl, by simp only [row]; decide⟩
theorem emptyDatabase (timeout : Word) : Statement (.emptyDatabase timeout) := ⟨_, rfl, by simp only [row]; decide⟩
theorem fastSearch (timeout : Word) : Statement (.fastSearch timeout) := ⟨_, rfl, by simp only [row]; decide⟩
theorem getTemplateCount (timeout : Word) : Statement (.getTemplateCount timeout) := ⟨_, rfl, by simp only [row]; decide⟩
theorem setPassword (password : Word) (timeout : Word) : Statement (.setPassword password timeout) := ⟨_, rfl, by simp only [row]; decide⟩
theorem frameCommand (address : Word) (payload : List Byte) : Statement (.frameCommand address payload) := ⟨_, rfl, by simp only [row]; decide⟩
theorem frameData (address : Word) (payload : List Byte) : Statement (.frameData address payload) := ⟨_, rfl, by simp only [row]; decide⟩
theorem frameAck (address : Word) (payload : List Byte) : Statement (.frameAck address payload) := ⟨_, rfl, by simp only [row]; decide⟩
theorem frameEndOfData (address : Word) (payload : List Byte) : Statement (.frameEndOfData address payload) := ⟨_, rfl, by simp only [row]; decide⟩
theorem execute (selector : BitVec 4) (f : Fields) : Statement (.execute selector f) := ⟨_, rfl, headerOf_mask _ _⟩
theorem sendFrame (selector : BitVec 4) (f : Fields) : Statement (.sendFrame selector f) := ⟨_, rfl, headerOf_mask _ _⟩
theorem receiveFrame (selector : BitVec 4) (f : Fields) : Statement (.receiveFrame selector f) := ⟨_, rfl, headerOf_mask _ _⟩

end Sys2Proof.Laws.TableRow
end

