-- ==== Sys2Proof/Laws/Sequencer.lean ====
section
/-! SUPPORT. Lemmas about the Sequencer: what an accept step and a step of the request in progress can do. -/

namespace Sys2Proof.Machine

/-- Everything the step on the request in progress can do (42_command_protocol.md R175 to R187): each constructor is one
step of the rules with its guard and its effect. -/
inductive SeqMove (u : State) : State → Prop where
  /-- No step is enabled, or the rule has no effect. -/
  | wait : SeqMove u u
  | transmit (b : Byte) (hs : u.seqState = .tx) (hi : u.txIdx.toNat < u.txLen.toNat) (hr : u.txReady = true)
      (hb : readAt u.txBuf u.txIdx.toNat = some b) : SeqMove u { u.transmit b with txIdx := u.txIdx + 1 }
  | parse (t : Word) (hs : u.seqState = .tx) (hi : u.txIdx = u.txLen) (hk : u.reqKind = some kindExecute)
      (ht : u.reqTimeout = some t) : SeqMove u (u.startParse t)
  | sent (hs : u.seqState = .tx) (hi : u.txIdx = u.txLen) (hk : u.reqKind = some kindSendFrame) :
      SeqMove u (u.respond { kind := .ok })
  | byte (b : Byte) (rest : List Byte) (q : Parser) (hs : u.seqState = .rx) (hw : u.prs.state.isWait = true)
      (hr : u.rxq = b :: rest) (hf : feed u.cfg.maxPayload u.prs b = .ok q) : SeqMove u { u with prs := q, rxq := rest }
  | timeout (t : Word) (hs : u.seqState = .rx) (hw : u.prs.state.isWait = true) (hr : u.rxq = [])
      (ht : u.prsTimeout = some t) (he : t.toNat ≤ u.elapsedMs.toNat) : SeqMove u (timeoutStep u)
  | conclude (r : Response) (hs : u.seqState = .rx) (ht : u.prs.state.isTerminal = true) : SeqMove u (u.conclude r)
  | matched (id conf : Half) (r : Response) (hs : u.seqState = .rx) (hd : u.prs.state = .done)
      (hk : u.reqKind = some kindExecute) (hc : u.reqCmd = some Command.fastSearch.selector) (hr : r.kind = .ok)
      (h1 : r.v1 = some id) (h2 : r.v2 = some conf) :
      SeqMove u ({ u with matchId := some id, confidence := some conf, matchValid := true }.conclude r)
  | counted (n : Half) (r : Response) (hs : u.seqState = .rx) (hd : u.prs.state = .done)
      (hk : u.reqKind = some kindExecute) (hc : u.reqCmd = some Command.getTemplateCount.selector) (hr : r.kind = .ok)
      (h1 : r.v1 = some n) : SeqMove u ({ u with templateCount := some n, countValid := true }.conclude r)

variable {s t u : State}

theorem resultOf_move {c : BitVec 4} {fs : List Byte} {a : Word} (hs : u.seqState = .rx) (hd : u.prs.state = .done)
    (hk : u.reqKind = some kindExecute) (hc : u.reqCmd = some c) : SeqMove u (resultOf c fs a u) := by
  have ht : u.prs.state.isTerminal = true := by rw [hd]; rfl
  unfold resultOf
  split
  · subst c
    unfold resultFastSearch
    split
    · exact .matched _ _ _ hs hd hk hc rfl rfl rfl
    · exact .conclude _ hs ht
  split
  · subst c
    unfold resultGetTemplateCount
    split
    · exact .counted _ _ hs hd hk hc rfl rfl
    · exact .conclude _ hs ht
  · exact .conclude _ hs ht

/-- What the end of EXECUTE with a complete frame can do (R179 to R181). -/
theorem finishExecute_move (hs : u.seqState = .rx) (hd : u.prs.state = .done) (hk : u.reqKind = some kindExecute)
    (h : finishExecute u = .ok t) : SeqMove u t := by
  have ht : u.prs.state.isTerminal = true := by rw [hd]; rfl
  simp only [finishExecute, bind_eq_ok, need_eq_ok] at h
  obtain ⟨ty, -, a, -, h⟩ := h
  split at h
  · cases h; exact .conclude _ hs ht
  simp only [bind_eq_ok, need_eq_ok] at h
  obtain ⟨n, -, payload, -, h⟩ := h
  unfold finishAck at h
  split at h
  · cases h; exact .conclude _ hs ht
  split at h
  · cases h; exact .conclude _ hs ht
  simp only [bind_eq_ok, need_eq_ok] at h
  obtain ⟨c, hc, h⟩ := h
  cases h
  exact resultOf_move hs hd hk hc

/-- EXECUTE with a frame of another type answers WRONG_TYPE, whatever the other registers hold (R179). -/
theorem finishExecute_wrongType {ty : Byte} {a : Word} (ht : u.prs.ftype = some ty) (ha : u.prs.addr.word = some a)
    (hne : ty ≠ typeAck) : finishExecute u = .ok (u.conclude (wrongTypeResponse ty a)) := by
  simp only [finishExecute, ht, ha, need_some, ok_bind, if_pos hne]

/-- EXECUTE with an acknowledgement is treated by its payload (R180, R181). -/
theorem finishExecute_ack {a : Word} {payload : List Byte} (hf : u.prs.frame = .ok ⟨a, typeAck, payload⟩) :
    finishExecute u = finishAck payload a u := by
  obtain ⟨ha, ht, n, hn, hp⟩ := frame_eq_ok.mp hf
  simp [finishExecute, ha, ht, hn, hp]

theorem finish_move (hs : u.seqState = .rx) (h : finish u = .ok t) : SeqMove u t := by
  unfold finish at h
  cases hst : u.prs.state <;> simp only [hst] at h
  case done =>
    have ht : u.prs.state.isTerminal = true := by rw [hst]; rfl
    simp only [finishFrame, bind_eq_ok, need_eq_ok] at h
    obtain ⟨k, hk, h⟩ := h
    split at h
    · subst k
      exact finishExecute_move hs hst hk h
    · simp only [bind_eq_ok] at h
      obtain ⟨fr, -, h⟩ := h
      cases h; exact .conclude _ hs ht
  case err =>
    simp only [bind_eq_ok, need_eq_ok] at h
    obtain ⟨r, -, h⟩ := h
    cases h
    exact .conclude _ hs (by rw [hst]; rfl)
  case timeout => cases h; exact .conclude _ hs (by rw [hst]; rfl)
  all_goals cases h; exact .wait

/-- The inversion lemma of the step on the request in progress. -/
theorem continueRequest_move (h : continueRequest u = .ok t) : SeqMove u t := by
  unfold continueRequest at h
  cases hs : u.seqState <;> simp only [hs] at h
  · cases h; exact .wait
  · unfold txPhase at h
    split at h
    · split at h
      · simp only [transmitStep, bind_eq_ok, need_eq_ok] at h
        obtain ⟨b, hb, h⟩ := h
        cases h
        exact .transmit b hs ‹_› ‹_› hb
      · cases h; exact .wait
    split at h
    · simp only [endOfTransmit, bind_eq_ok, need_eq_ok] at h
      obtain ⟨k, hk, h⟩ := h
      split at h
      · subst k
        simp only [bind_eq_ok, need_eq_ok] at h
        obtain ⟨w, hw, h⟩ := h
        cases h
        exact .parse w hs ‹_› hk hw
      split at h
      · subst k; cases h; exact .sent hs ‹_› hk
      · cases h; exact .wait
    · cases h; exact .wait
  · unfold rxPhase at h
    split at h
    · rename_i hw
      unfold waitPhase at h
      split at h
      · rename_i b rest hr
        obtain ⟨q, hq, rfl⟩ := byteStep_eq_ok.mp h
        exact .byte b rest q hs hw hr hq
      · rename_i hr
        simp only [bind_eq_ok] at h
        obtain ⟨due, hdue, h⟩ := h
        cases h
        split
        · rename_i hd
          subst hd
          have ha : u.parserActive = true := parserActive_iff.mpr ⟨hs, hw⟩
          simp only [timeoutEnabled, ha, hr, List.isEmpty_nil, Bool.and_self, if_true, bind_eq_ok, need_eq_ok] at hdue
          obtain ⟨w, hwt, hd⟩ := hdue
          exact .timeout w hs hw hr hwt (by simpa using hd)
        · exact .wait
    · exact finish_move hs h

/-- Everything an accept step can do (R170): it copies the request, and then rejects it or starts its plan. -/
theorem accept_cases (r : Request) (s : State) :
    (∃ e, check s.cfg s.password r = .error e ∧ accept r s = (s.latch r).respond (misuseResponse e))
      ∨ (∃ ty p, check s.cfg s.password r = .ok (.send ty p)
          ∧ accept r s = (s.latch r).startTransmit (encodeFrame s.address ty p))
      ∨ (check s.cfg s.password r = .ok .collect ∧ accept r s = (s.latch r).startParse r.fields.timeout) := by
  unfold accept
  cases h : check s.cfg s.password r with
  | error e => exact .inl ⟨e, rfl, rfl⟩
  | ok plan =>
    cases plan with
    | send ty p => exact .inr (.inl ⟨ty, p, rfl, rfl⟩)
    | collect => exact .inr (.inr ⟨rfl, rfl⟩)

/-- A request that passes CHECK sends at most `MAX_PAYLOAD` bytes, and collects only if it is RECEIVE_FRAME (R173, R186,
R187). -/
theorem check_ok {cfg : Config} {w : Word} {r : Request} {plan : Plan} (h : check cfg w r = .ok plan) :
    (∃ ty p, plan = .send ty p ∧ p.length ≤ cfg.maxPayload ∧ (r.kind = kindExecute ∨ r.kind = kindSendFrame))
      ∨ (plan = .collect ∧ r.kind = kindReceiveFrame) := by
  have hl : ∀ ty p, checkLength cfg ty p = .ok plan → plan = .send ty p ∧ p.length ≤ cfg.maxPayload := by
    intro ty p hp
    unfold checkLength at hp
    split at hp
    · cases hp
    · cases hp; exact ⟨rfl, by omega⟩
  unfold check at h
  split at h; · cases h
  split at h
  · rename_i hk
    unfold checkExecute at h
    split at h; · cases h
    simp only [bind_eq_ok] at h
    obtain ⟨-, -, h⟩ := h
    obtain ⟨rfl, hp⟩ := hl _ _ h
    exact .inl ⟨_, _, rfl, hp, .inl hk⟩
  split at h
  · rename_i hk
    unfold checkSendFrame at h
    split at h
    · obtain ⟨rfl, hp⟩ := hl _ _ h
      exact .inl ⟨_, _, rfl, hp, .inr hk⟩
    · cases h
  split at h
  · rename_i hk
    cases h; exact .inr ⟨rfl, hk⟩
  · cases h

/-- The request step in IDLE is the accept step (R170). -/
theorem runRequest_idle {r : Request} (h : s.seqState = .idle) : runRequest r s = .next (accept r s) := by
  simp [runRequest, h]

/-- The request step on the request in progress is its next step. -/
theorem runRequest_inProgress {r : Request} (h : s.seqState ≠ .idle) (hr : s.holds r = true) :
    runRequest r s = toOutcome (continueRequest s) := by
  simp [runRequest, h, hr]

/-- Another request is not taken while one is in progress (R170). -/
theorem runRequest_held {r : Request} (h : s.seqState ≠ .idle) (hr : s.holds r = false) : runRequest r s = .next s := by
  simp [runRequest, h, hr]

/-- Copying a request and starting its frame, as the statements write it (R170, R174, R186). -/
theorem startTransmit_latch (s : State) (k : BitVec 2) (c : BitVec 4) (f : Fields) (ty : Byte) (p : List Byte) :
    State.startTransmit (encodeFrame s.address ty p) (s.latch ⟨headerOf c k, f⟩) = s.sending k c f ty p := by
  simp only [State.startTransmit, State.latch, State.sending, encodeFrame_length, headerOf_kind, headerOf_selector]

/-- Copying a request and rejecting it, as the statements write it (R170). -/
theorem respond_latch (k : BitVec 2) (c : BitVec 4) (f : Fields) (m : Misuse) (h : s.seqState = .idle) :
    State.respond (misuseResponse m) (s.latch ⟨headerOf c k, f⟩) = s.rejecting k c f m.code := by
  simp only [State.respond, State.latch, State.rejecting, headerOf_kind, headerOf_selector, misuseResponse, ← h]

/-- CHECK of an EXECUTE header (R172, R173). -/
theorem check_execute (cfg : Config) (w : Word) (c : BitVec 4) (f : Fields) :
    check cfg w ⟨headerOf c kindExecute, f⟩ = checkExecute cfg w ⟨headerOf c kindExecute, f⟩ := by
  simp [check]

/-- CHECK of a SEND_FRAME header (R172, R186). -/
theorem check_sendFrame (cfg : Config) (w : Word) (c : BitVec 4) (f : Fields) :
    check cfg w ⟨headerOf c kindSendFrame, f⟩ = checkSendFrame cfg ⟨headerOf c kindSendFrame, f⟩ := by
  simp [check, kindSendFrame, kindExecute]

/-- CHECK of a RECEIVE_FRAME header (R172, R187). -/
theorem check_receiveFrame (cfg : Config) (w : Word) (c : BitVec 4) (f : Fields) :
    check cfg w ⟨headerOf c kindReceiveFrame, f⟩ = .ok .collect := by
  simp [check, kindSendFrame, kindExecute, kindReceiveFrame]

end Sys2Proof.Machine
end

