-- ==== Sys2Proof/Laws/Step.lean ====
section
/-! SUPPORT. Lemmas about one step of the machine: what the FPE's step and each turn can do. -/

namespace Sys2Proof.Machine

/-- A host line that decodes to an instruction is run as the request it carries. -/
theorem exec_hostLine {l : HostLine} {i : Instr} (h : decode (.host l) = .ok i) :
    ∃ r : Request, ∀ s, exec i s = runRequest r s := by
  cases l with
  | record r =>
    simp only [decode, decodeRecord] at h
    split at h; · cases h
    split at h
    · cases h; exact ⟨_, fun s => rfl⟩
    split at h
    · cases h; exact ⟨_, fun s => rfl⟩
    split at h
    · cases h; exact ⟨_, fun s => rfl⟩
    · cases h
  | call op f =>
    simp only [decode, decodeCall] at h
    split at h
    · rename_i c hc
      cases h
      cases c <;> exact ⟨_, fun s => rfl⟩
    · cases h

/-- A record that decodes to an instruction is run as itself: no bit of its header is lost (30_encoding.md R75). -/
theorem exec_record {r : Request} {i : Instr} (h : decode (.host (.record r)) = .ok i) (s : State) :
    exec i s = runRequest r s := by
  simp only [decode, decodeRecord] at h
  split at h; · cases h
  rename_i hres
  have e : ∀ k, r.kind = k → (⟨headerOf r.selector k, r.fields⟩ : Request) = r := by
    rintro k rfl
    rw [headerOf_fields r (by simpa using hres)]
  split at h
  · cases h; exact congrArg (runRequest · s) (e _ ‹_›)
  split at h
  · cases h; exact congrArg (runRequest · s) (e _ ‹_›)
  split at h
  · cases h; exact congrArg (runRequest · s) (e _ ‹_›)
  · cases h

/-- The frame instruction that bytes decode to puts bytes at the end of the receive queue (10_state.md R36). -/
theorem exec_wire {bs : List Byte} {i : Instr} (h : decode (.wire bs) = .ok i) :
    ∃ a ty p, decodeFrame wirePayloadMax bs = .ok ⟨a, ty, p⟩
      ∧ ∀ s : State, exec i s = .next (s.receive (encodeFrame a ty p)) := by
  simp only [decode, decodeWire] at h
  split at h
  · rename_i fr hfr
    refine ⟨fr.address, fr.ftype, fr.payload, hfr, fun s => ?_⟩
    simp only [Frame.instr] at h
    split at h
    · rename_i hty; cases h; rw [hty]; rfl
    split at h
    · rename_i hty; cases h; rw [hty]; rfl
    split at h
    · rename_i hty; cases h; rw [hty]; rfl
    split at h
    · rename_i hty; cases h; rw [hty]; rfl
    · cases h
  · cases h

/-- Everything the FPE's step can do: wait for a request, accept the offered one, or go on with the request in
progress. -/
inductive FpeMove (u : State) : State → Prop where
  | waitForRequest (hs : u.seqState = .idle) (hq : u.hostq = []) : FpeMove u u
  | accept (l : HostLine) (rest : List HostLine) (r : Request) (hs : u.seqState = .idle) (hq : u.hostq = l :: rest) :
      FpeMove u (accept r { u with hostq := rest })
  | goOn (t : State) (hs : u.seqState ≠ .idle) (hm : SeqMove u t) : FpeMove u t

/-- The inversion lemma of the FPE's step. -/
theorem fpeStep_move {u t : State} (h : fpeStep u = .next t) : FpeMove u t := by
  unfold fpeStep at h
  split at h
  · rename_i hs
    split at h
    · cases h; exact .waitForRequest hs ‹_›
    · rename_i l rest hq
      unfold acceptLine at h
      split at h
      · rename_i i hi
        obtain ⟨r, hr⟩ := exec_hostLine hi
        rw [hr, runRequest_idle (by exact hs)] at h
        cases h
        exact .accept l rest r hs hq
      · split at h
        · cases h; exact .accept _ rest _ hs hq
        · cases h
  · rename_i hs; exact .goOn _ (by simp [hs]) (continueRequest_move (by simpa using h))
  · rename_i hs; exact .goOn _ (by simp [hs]) (continueRequest_move (by simpa using h))

/-- Everything a step can do (00_scope.md R12): the FPE's step in its turn, or in the clock's when a tick must wait, or the
move of another agent. -/
inductive Move (s : State) : State → Prop where
  | fpeAlone (t : State) (ha : s.agenda = []) (hm : FpeMove s t) : Move s t
  | fpe (t : State) (rest : List Turn) (ha : s.agenda = .fpe :: rest) (hm : FpeMove { s with agenda := rest } t) : Move s t
  | heldTick (t : State) (rest : List Turn) (ha : s.agenda = .tick :: rest) (he : tickEnabled s = .ok false) (hm : FpeMove s t) : Move s t
  | tick (rest : List Turn) (ha : s.agenda = .tick :: rest) (he : tickEnabled s = .ok true) :
      Move s ({ s with agenda := rest } : State).tick
  | offer (l : HostLine) (rest : List Turn) (ha : s.agenda = .offer l :: rest) :
      Move s (({ s with agenda := rest } : State).offer l)
  | rx (bs arrived : List Byte) (rest : List Turn) (ha : s.agenda = .rx bs :: rest) :
      Move s (({ s with agenda := rest } : State).receive arrived)
  | txReady (b : Bool) (rest : List Turn) (ha : s.agenda = .txReady b :: rest) :
      Move s (({ s with agenda := rest } : State).setTxReady b)
  | rst (cfg : Config) (rest : List Turn) (ha : s.agenda = .rst cfg :: rest) :
      Move s (({ s with agenda := rest } : State).resetFpe cfg)

/-- The inversion lemma of the step. -/
theorem step_move {s t : State} (h : step s = .next t) : Move s t := by
  unfold step at h
  split at h
  · exact .fpeAlone _ ‹_› (fpeStep_move h)
  · exact .fpe _ _ ‹_› (fpeStep_move h)
  · cases h; exact .offer _ _ ‹_›
  · rename_i bs rest ha
    unfold arrive at h
    split at h
    · rename_i i hi
      obtain ⟨a, ty, p, -, he⟩ := exec_wire hi
      rw [he] at h
      cases h
      exact .rx bs _ rest ha
    · cases h; exact .rx bs _ rest ha
  · cases h; exact .txReady _ _ ‹_›
  · rename_i rest ha
    unfold tickTurn at h
    split at h
    · cases h; exact .tick rest ha ‹_›
    · exact .heldTick _ rest ha ‹_› (fpeStep_move h)
    · cases h
  · cases h; exact .rst _ _ ‹_›

/-- What a run that is over is: IDLE, and no request offered now or in a turn to come (70_reset_and_hazards.md R285). -/
theorem runOver_iff {s : State} :
    s.runOver = true ↔ s.seqState = .idle ∧ s.hostq = [] ∧ ∀ l, .offer l ∉ s.agenda := by
  have : s.agenda.any Turn.isOffer = true ↔ ∃ l, .offer l ∈ s.agenda := by
    rw [List.any_eq_true]
    refine ⟨fun ⟨x, hx, ho⟩ => ?_, fun ⟨l, hl⟩ => ⟨_, hl, rfl⟩⟩
    cases x <;> simp [Turn.isOffer] at ho
    exact ⟨_, hx⟩
  simp only [State.runOver, Bool.and_eq_true, decide_eq_true_eq, List.isEmpty_iff, Bool.not_eq_true', and_assoc]
  rw [← Bool.not_eq_true, this, not_exists]

/-- A run that is over stays over, and nothing more is answered or sent (70_reset_and_hazards.md R285). -/
theorem runOver_step {s t : State} (ho : s.runOver = true) (h : step s = .next t) :
    t.runOver = true ∧ t.responses = s.responses ∧ t.txStream = s.txStream := by
  obtain ⟨hs, hq, ha⟩ := runOver_iff.mp ho
  have idle : ∀ {u : State}, u.seqState = .idle → u.hostq = [] → FpeMove u t → t = u := by
    intro u hs hq hm
    cases hm with
    | waitForRequest => rfl
    | accept l rest r _ hq' => rw [hq] at hq'; cases hq'
    | goOn _ hb => exact absurd hs hb
  have tail : ∀ {x rest}, s.agenda = x :: rest → ∀ l, .offer l ∉ rest :=
    fun e l h => ha l (e ▸ List.mem_cons_of_mem _ h)
  cases step_move h with
  | fpeAlone _ _ hm => rw [idle hs hq hm]; exact ⟨ho, rfl, rfl⟩
  | fpe _ rest e hm =>
    rw [idle (u := { s with agenda := rest }) hs hq hm]; exact ⟨runOver_iff.mpr ⟨hs, hq, tail e⟩, rfl, rfl⟩
  | heldTick _ _ _ _ hm => rw [idle hs hq hm]; exact ⟨ho, rfl, rfl⟩
  | tick rest e =>
    unfold State.tick
    split <;> exact ⟨runOver_iff.mpr ⟨hs, hq, tail e⟩, rfl, rfl⟩
  | offer l rest e => exact absurd (e ▸ List.mem_cons_self) (ha l)
  | rx _ _ rest e => exact ⟨runOver_iff.mpr ⟨hs, hq, tail e⟩, rfl, rfl⟩
  | txReady _ rest e => exact ⟨runOver_iff.mpr ⟨hs, hq, tail e⟩, rfl, rfl⟩
  | rst _ rest e => exact ⟨runOver_iff.mpr ⟨rfl, hq, tail e⟩, rfl, rfl⟩

/-- In its turn the machine's step is the FPE's. -/
theorem step_fpeTurn {s t : State} (h : s.fpeTurn t) : step s = fpeStep t := by
  obtain ⟨ha, rfl⟩ | ⟨rest, ha, rfl⟩ := h
  · simp [step, ha]
  · simp [step, ha]

/-- Outside IDLE the FPE's step is the step on the request in progress. -/
theorem fpeStep_busy {u : State} (h : u.seqState ≠ .idle) : fpeStep u = toOutcome (continueRequest u) := by
  cases hs : u.seqState <;> simp_all [fpeStep]

end Sys2Proof.Machine
end

