-- ==== Sys2Proof/Laws/Runs.lean ====
section
/-! SUPPORT. Lemmas about runs: feeding a whole frame to the parser, and the steps that read bytes or send a frame one
after the other. -/

namespace Sys2Proof.Machine

variable {m : Nat}

/-! ### Feeding a frame -/

/-- The payload bytes, from the first that is still missing to the last (41_stream_assembler.md R139). -/
theorem feedAll_payload {h l ty : Byte} {n : Half} (xs : List Byte) : ∀ (p : Parser) (ys : List Byte),
    p.state = .payload → p.n = some n → p.acc = some (cs16 h l ty ys) → readFirst p.idx.toNat p.payload = some ys →
    n.toNat ≤ p.payload.length → p.idx.toNat + xs.length = n.toNat → xs ≠ [] →
    ∃ pl i, readFirst n.toNat pl = some (ys ++ xs)
      ∧ feedAll m p xs
        = .ok ({ p with payload := pl, idx := i, acc := some (cs16 h l ty (ys ++ xs)), state := .sumHi }, []) := by
  induction xs with
  | nil => intro _ _ _ _ _ _ _ _ h; exact absurd rfl h
  | cons x xs ih =>
    intro p ys hst hn ha hr hl hx _
    have hset := readFirst_set x hr (by simp at hx; omega)
    simp only [feedAll, hst, PrsState.isWait, if_true, feed, feedPayload, hn, ha, need_some, ok_bind]
    rw [if_neg (by simp at hx; omega), ← cs16_append]
    cases xs with
    | nil =>
      simp at hx
      rw [if_pos hx]
      refine ⟨_, p.idx, by rw [← hx]; exact hset, ?_⟩
      simp [feedAll]
    | cons y ys' =>
      simp at hx
      rw [if_neg (by omega)]
      have hi1 : (p.idx + 1).toNat = p.idx.toNat + 1 := by have := n.isLt; simp [BitVec.toNat_add]; omega
      obtain ⟨pl, i, h1, h2⟩ := ih
        { p with payload := p.payload.set p.idx.toNat (some x), acc := some (cs16 h l ty (ys ++ [x])), idx := p.idx + 1 }
        (ys ++ [x]) hst hn rfl (by simp only [hi1]; exact hset) (by simpa using hl) (by simp; omega) (by simp)
      simp only [List.append_assoc, List.singleton_append] at h1 h2
      exact ⟨pl, i, h1, by simpa [hst, hn] using h2⟩

/-- A parser just started (R131). -/
def startedParser (m : Nat) : Parser := { Parser.reset m with state := .waitStartHi }

/-- What the capture registers hold after marker, address, type and length (R133 to R138). -/
def headerParser (m : Nat) (a0 a1 a2 a3 ty lh ll : Byte) : Parser :=
  { state := .lenLo, idx := 3, addr := ⟨some a0, some a1, some a2, some a3⟩, ftype := some ty, lenHi := some lh
    lenLo := some ll, n := none, payload := List.replicate m none, acc := some (cs16 lh ll ty []), sumHi := none
    err := none }

/-- The nine header bytes, with the length check of R138. -/
theorem feedAll_header (m : Nat) (a0 a1 a2 a3 ty lh ll : Byte) :
    feedAll m (startedParser m) [0xEF, 0x01, a0, a1, a2, a3, ty, lh, ll]
      = .ok (if (u16 lh ll).toNat < 2 then (headerParser m a0 a1 a2 a3 ty lh ll).fail .lenShort
          else if m < (u16 lh ll).toNat - 2 then (headerParser m a0 a1 a2 a3 ty lh ll).fail .lenLong
          else { headerParser m a0 a1 a2 a3 ty lh ll with
            n := some (u16 lh ll - 2), idx := 0, state := if (u16 lh ll).toNat = 2 then .sumHi else .payload }, []) := by
  have h8 : feedAll m (startedParser m) [0xEF, 0x01, a0, a1, a2, a3, ty, lh]
      = .ok ({ headerParser m a0 a1 a2 a3 ty lh ll with lenLo := none, acc := some (zext16 ty + zext16 lh) }, []) := rfl
  have := feedAll_append (ys := [ll]) h8
  simp only [List.cons_append, List.nil_append] at this
  rw [this]
  simp only [feedAll, headerParser, PrsState.isWait, if_true, feed, feedLenLo, need_some, ok_bind, ← cs16_nil]
  by_cases h1 : (u16 lh ll).toNat < 2
  · simp only [h1, if_true]
  by_cases h2 : m < (u16 lh ll).toNat - 2
  · simp only [h1, h2, if_true, if_false]
  · simp only [h1, h2, if_false]

/-- Marker, header and the whole payload (R133 to R139). -/
theorem feedAll_uptoSum {a0 a1 a2 a3 ty lh ll : Byte} {p : List Byte} (hp : (u16 lh ll).toNat = p.length + 2)
    (hm : p.length ≤ m) :
    ∃ pl i, readFirst p.length pl = some p
      ∧ feedAll m (startedParser m) ([0xEF, 0x01, a0, a1, a2, a3, ty, lh, ll] ++ p)
        = .ok ({ headerParser m a0 a1 a2 a3 ty lh ll with
            n := some (u16 lh ll - 2), idx := i, payload := pl, acc := some (cs16 lh ll ty p), state := .sumHi }, []) := by
  have h9 := feedAll_header m a0 a1 a2 a3 ty lh ll
  rw [if_neg (by omega), if_neg (by omega)] at h9
  have hn := prsN_toNat (h := lh) (l := ll) (by omega)
  cases p with
  | nil =>
    have : (u16 lh ll).toNat = 2 := hp
    refine ⟨List.replicate m none, 0, rfl, ?_⟩
    rw [List.append_nil, h9, if_pos this]; rfl
  | cons x xs =>
    rw [if_neg (by simp at hp; omega)] at h9
    obtain ⟨pl, i, h1, h2⟩ := feedAll_payload (m := m) (h := lh) (l := ll) (ty := ty) (n := u16 lh ll - 2) (x :: xs)
      { headerParser m a0 a1 a2 a3 ty lh ll with n := some (u16 lh ll - 2), idx := 0, state := .payload } []
      rfl rfl rfl rfl (by rw [hn]; simp [headerParser]; simp at hm hp; omega) (by rw [hn]; simp; simp at hp; omega) (by simp)
    refine ⟨pl, i, ?_, ?_⟩
    · rw [hn, hp] at h1; simpa using h1
    · rw [feedAll_append h9, h2]; rfl

/-- A frame of a legal length, with any checksum bytes: it completes exactly when they are the checksum (R141). -/
theorem feedAll_frame {a0 a1 a2 a3 ty lh ll sh sl : Byte} {p : List Byte} (hp : (u16 lh ll).toNat = p.length + 2)
    (hm : p.length ≤ m) :
    ∃ q, feedAll m (startedParser m) ([0xEF, 0x01, a0, a1, a2, a3, ty, lh, ll] ++ p ++ [sh, sl]) = .ok (q, [])
      ∧ (u16 sh sl = cs16 lh ll ty p → q.state = .done ∧ q.frame = .ok ⟨u32 a0 a1 a2 a3, ty, p⟩)
      ∧ (u16 sh sl ≠ cs16 lh ll ty p → q.state = .err ∧ q.err = some .badChecksum) := by
  obtain ⟨pl, i, h1, h2⟩ := feedAll_uptoSum (a0 := a0) (a1 := a1) (a2 := a2) (a3 := a3) (ty := ty) hp hm
  rw [feedAll_append h2]
  simp only [feedAll, headerParser, PrsState.isWait, if_true, feed, feedSumHi, feedSumLo, need_some, ok_bind]
  refine ⟨_, rfl, fun h => ?_, fun h => ?_⟩
  · rw [if_pos h]
    refine ⟨rfl, ?_⟩
    have hn := prsN_toNat (h := lh) (l := ll) (by omega)
    simp only [Parser.frame, Bytes4.word, need_some, ok_bind, hn]
    rw [show (u16 lh ll).toNat - 2 = p.length by omega, h1]; rfl
  · rw [if_neg h]; exact ⟨rfl, rfl⟩

/-- Bytes without `0xEF` are skipped by the hunt for the start marker (R133). -/
theorem feedAll_noise {p : Parser} (hp : p.state = .waitStartHi) {junk : List Byte} (h : (0xEF : Byte) ∉ junk) :
    feedAll m p junk = .ok (p, []) := by
  induction junk with
  | nil => rfl
  | cons x xs ih =>
    simp at h
    have : ¬ x = startHi := fun e => h.1 e.symm
    simp only [feedAll, hp, PrsState.isWait, if_true, feed, feedWaitStartHi, if_neg this]
    exact ih h.2

/-- Feeding an encoded frame captures it (R133 to R141). -/
theorem feedAll_encodeFrame {a : Word} {ty : Byte} {p : List Byte} (hp : p.length ≤ m) (hm : m ≤ wirePayloadMax) :
    ∃ q, feedAll m (startedParser m) (encodeFrame a ty p) = .ok (q, []) ∧ q.state = .done ∧ q.frame = .ok ⟨a, ty, p⟩ := by
  obtain ⟨q, h1, h2, -⟩ := feedAll_frame (m := m) (a0 := a.extractLsb' 24 8) (a1 := a.extractLsb' 16 8)
    (a2 := a.extractLsb' 8 8) (a3 := a.extractLsb' 0 8) (ty := ty) (lh := (wireLength p).extractLsb' 8 8)
    (ll := (wireLength p).extractLsb' 0 8) (sh := (frameChecksum ty p).extractLsb' 8 8)
    (sl := (frameChecksum ty p).extractLsb' 0 8) (p := p)
    (by rw [u16_extract]; exact wireLength_toNat (hp.trans hm)) hp
  refine ⟨q, ?_, by simpa using h2 (by rw [u16_extract]; rfl)⟩
  rw [← h1, encodeFrame_eq]
  simp [be16, startHi, startLo]

/-- The resynchronisation law for FEED: behind any noise without `0xEF` a frame is still captured whole (R150). -/
theorem feedAll_resynchronises {a : Word} {ty : Byte} {p junk : List Byte} (hp : p.length ≤ m) (hm : m ≤ wirePayloadMax)
    (hj : (0xEF : Byte) ∉ junk) :
    ∃ q, feedAll m (startedParser m) (junk ++ encodeFrame a ty p) = .ok (q, [])
      ∧ q.state = .done ∧ q.frame = .ok ⟨a, ty, p⟩ := by
  rw [feedAll_append (feedAll_noise rfl hj)]
  exact feedAll_encodeFrame hp hm

/-- What follows a parse that has ended is left unread (R145). -/
theorem feedAll_ended {p q : Parser} {xs ys : List Byte} (h : feedAll m p xs = .ok (q, [])) (hq : q.state.isWait = false) :
    feedAll m p (xs ++ ys) = .ok (q, ys) := by
  rw [feedAll_append h, feedAll_stop hq]

/-! ### Runs of several steps -/

/-- The first step of a run. -/
theorem run_succ {s t : State} {n : Nat} (h : step s = .next t) :
    Host.Core.run Sys2Proof.core (n + 1) s = Host.Core.run Sys2Proof.core n t := by
  simp only [Host.Core.run]; rw [show Sys2Proof.core.step s = _ from h]

/-- A run of one step. -/
theorem run_one {s t : State} (h : step s = .next t) : Host.Core.run Sys2Proof.core 1 s = .next t := run_succ h

/-- A run in two parts. -/
theorem run_add (a b : Nat) {s t : State} (h : Host.Core.run Sys2Proof.core a s = .next t) :
    Host.Core.run Sys2Proof.core (a + b) s = Host.Core.run Sys2Proof.core b t := by
  induction a generalizing s with
  | zero => cases h; simp
  | succ a ih =>
    rw [Nat.succ_add]
    simp only [Host.Core.run] at h ⊢
    split at h
    · exact ih h
    · cases h
    · cases h

/-- In its turn the FPE reads the next byte of an active parse (R132). -/
theorem step_byte {s t : State} {b : Byte} {rest : List Byte} {q : Parser} (ht : s.fpeTurn t) (hs : t.seqState = .rx)
    (hr : t.rxq = b :: rest) (hw : t.prs.state.isWait = true) (hf : feed t.cfg.maxPayload t.prs b = .ok q) :
    step s = .next { t with rxq := rest, prs := q } := by
  rw [step_fpeTurn ht, fpeStep_busy (by simp [hs])]
  simp only [continueRequest, hs, rxPhase, hw, if_true, waitPhase, hr, byteStep, hf, ok_bind, toOutcome_ok]

/-- In its turn the FPE finishes a request whose parse has ended (42_command_protocol.md R177). -/
theorem step_finish {s t : State} (ht : s.fpeTurn t) (hs : t.seqState = .rx) (hw : t.prs.state.isWait = false) :
    step s = toOutcome (finish t) := by
  rw [step_fpeTurn ht, fpeStep_busy (by simp [hs])]
  simp [continueRequest, hs, rxPhase, hw]

/-- The bytes of a parse, one step each, when no other agent moves. -/
theorem run_feed {xs rest : List Byte} : ∀ {s : State} {q : Parser}, s.agenda = [] → s.seqState = .rx →
    s.rxq = xs ++ rest → feedAll s.cfg.maxPayload s.prs xs = .ok (q, []) →
    Host.Core.run Sys2Proof.core xs.length s = .next { s with prs := q, rxq := rest } := by
  induction xs with
  | nil => intro s q ha hs hr h; simp [feedAll] at h; simp at hr; subst h; rw [← hr]; rfl
  | cons x xs ih =>
    intro s q ha hs hr h
    simp only [feedAll] at h
    split at h
    · rename_i hw
      split at h
      · rename_i p' hf
        rw [List.length_cons, run_succ (step_byte (.inl ⟨ha, rfl⟩) hs hr hw hf)]
        exact ih (s := { s with rxq := xs ++ rest, prs := p' }) ha hs rfl h
      · cases h
    · cases h

end Sys2Proof.Machine
end

