-- ==== Sys2Proof/Machine/Pseudo.lean ====
section
/-! DEFINITION. The pseudo-instructions of the host (30_encoding.md R83): host programs over the three
requests. The FPE sees only their expansion, so no step calls this file. -/

namespace Sys2Proof.Machine

/-- The pseudo-instructions (R83). -/
inductive Pseudo where
  | uploadTemplate (buffer : Byte)
  | downloadTemplate (buffer : Byte) (chunks : List (List Byte))
  | enroll (location : Half)
deriving DecidableEq, Repr

/-- A RECEIVE_FRAME request. -/
def receiveRequest (timeout : Word) : Request := ⟨headerOf 0 kindReceiveFrame, { timeout := timeout }⟩

/-- A SEND_FRAME request. -/
def sendRequest (ftype : Byte) (payload : List Byte) : Request :=
  ⟨headerOf 0 kindSendFrame, { ftype := ftype, payload := payload }⟩

/-- UPLOAD_TEMPLATE: UploadModel, then RECEIVE_FRAME while Data frames come. -/
def nextUpload (cfg : Config) (buffer : Byte) : List Response → Option Request
  | [] => some (Command.uploadModel.request { a8 := buffer, timeout := cfg.defaultTimeoutMs })
  | [ack] => if ack.kind = .ok then some (receiveRequest cfg.bulkTimeoutMs) else none
  | _ :: rs =>
    match rs.getLast? with
    | some r => if r.kind = .ok ∧ r.ftype = some typeData then some (receiveRequest cfg.bulkTimeoutMs) else none
    | none => none

/-- DOWNLOAD_TEMPLATE: DownloadModel; if OK, a Data frame for each chunk but the last and an EndOfData frame for
the last. With no chunk at all, for which R83 names no EndOfData frame to send, nothing follows the acknowledgement
(DESIGN CHOICE, log 23). -/
def nextDownload (cfg : Config) (buffer : Byte) (chunks : List (List Byte)) : List Response → Option Request
  | [] => some (Command.downloadModel.request { a8 := buffer, timeout := cfg.defaultTimeoutMs })
  | ack :: sent =>
    if ack.kind = .ok then
      (chunks[sent.length]?).map fun chunk =>
        sendRequest (if sent.length + 1 = chunks.length then typeEndOfData else typeData) chunk
    else none

/-- The six commands of ENROLL. -/
def enrollSteps (cfg : Config) (location : Half) : List Request :=
  [Command.captureImage.request { timeout := cfg.defaultTimeoutMs },
   Command.extractFeatures.request { a8 := 1, timeout := cfg.defaultTimeoutMs },
   Command.captureImage.request { timeout := cfg.defaultTimeoutMs },
   Command.extractFeatures.request { a8 := 2, timeout := cfg.defaultTimeoutMs },
   Command.createModel.request { timeout := cfg.defaultTimeoutMs },
   Command.storeModel.request { a16 := location, timeout := cfg.defaultTimeoutMs }]

/-- The next request of a pseudo-instruction, given the responses to its requests so far; `none` when it has
ended. ENROLL stops at the first result that is not OK. Its timeout is the ordinary one of
42_command_protocol.md R171, which R83 does not state (DEDUCED, log 19). -/
def Pseudo.next (cfg : Config) (p : Pseudo) (rs : List Response) : Option Request :=
  match p with
  | .uploadTemplate buffer => nextUpload cfg buffer rs
  | .downloadTemplate buffer chunks => nextDownload cfg buffer chunks rs
  | .enroll location =>
    if rs.all (fun r => r.kind = .ok) then (enrollSteps cfg location)[rs.length]? else none

end Sys2Proof.Machine
end

