-- ==== Sys2Proof/Tests/Slice0.lean ====
section
/-! SUPPORT. The model's own tests, with the expected bytes of 95_test_vectors.md (V1 to V153, X1 to X8), and a witness for
the hypotheses of every statement that has some. -/

namespace Sys2Proof.Tests

open Sys2Proof.Machine

/-! ### Small states -/

/-- The parameters of 95_test_vectors.md with a small `MAX_PAYLOAD`. -/
def cfg16 : Config :=
  { initPassword := 0, libraryCapacity := 200, maxPayload := 16, libraryCapacity_pos := by decide, libraryCapacity_le := by decide }

/-- The FPE just after reset. -/
def idle : State := State.reset.resetFpe cfg16

/-- A host line is offered. -/
def offered (l : HostLine) : State := { idle with hostq := [l] }

/-- CaptureImage is being sent. -/
def inTx : State := idle.sending 0 1 { timeout := 1000 } 0x01 [0x01]

/-- The last byte of it has been sent. -/
def sentAll : State := { inTx with txIdx := 12 }

/-- A parser in this state, with every capture register holding a value. -/
def prsIn (st : PrsState) (idx n acc : Half) : Parser :=
  { state := st, idx := idx, addr := ⟨some 0xFF, some 0xFF, some 0xFF, some 0xFF⟩, ftype := some 0x07, lenHi := some 0
    lenLo := some 3, n := some n, payload := List.replicate 16 (some 0), acc := some acc, sumHi := some 0, err := none }

/-- A parser that has completed a frame. -/
def prsDone (ty : Byte) (p : List Byte) : Parser :=
  { prsIn .done 0 (BitVec.ofNat 16 p.length) 0 with ftype := some ty, payload := p.map some ++ List.replicate (16 - p.length) none }

/-- The reply to this request is being collected. -/
def inRx (r : Request) (p : Parser) (rxq : List Byte) : State :=
  { idle.latch r with seqState := .rx, prs := p, prsTimeout := some r.fields.timeout, rxq := rxq }

/-- EXECUTE CaptureImage and EXECUTE FastSearch, as the request channel carries them (V122, V137). -/
def capture : Request := ⟨0x04, { timeout := 1000 }⟩
def search : Request := ⟨0x28, { timeout := 1000 }⟩
def count : Request := ⟨0x2C, { timeout := 1000 }⟩
def collect : Request := ⟨0x02, { timeout := 5 }⟩

/-- The acknowledgement `00` of V20, and a FastSearch acknowledgement (V100). -/
def ack : List Byte := [0xEF, 0x01, 0xFF, 0xFF, 0xFF, 0xFF, 0x07, 0x00, 0x03, 0x00, 0x00, 0x0A]
def ackSearch : List Byte :=
  [0xEF, 0x01, 0xFF, 0xFF, 0xFF, 0xFF, 0x07, 0x00, 0x07, 0x00, 0x00, 0x05, 0x00, 0x64, 0x00, 0x77]

/-- The frame a next state has in `TXBUF`. -/
def sentFrame : Host.Outcome State Fault Refusal → Option (List Byte)
  | .next s => readFirst s.txLen.toNat s.txBuf
  | .fault _ => none
  | .refused _ => none

/-- What a next state has answered. -/
def answers : Host.Outcome State Fault Refusal → Option (List Response)
  | .next s => some s.responses
  | .fault _ => none
  | .refused _ => none

/-- Did the step answer a next state? -/
def isNext : Host.Outcome State Fault Refusal → Bool
  | .next _ => true
  | .fault _ => false
  | .refused _ => false

/-! ### WellFormed: one ill-formed term for each check -/

theorem test_command_frame_too_long : (Instr.frameCommand 0 (List.replicate 65534 0)).wellFormed = false := by
  rw [Instr.wellFormed, List.length_replicate]; rfl

theorem test_data_frame_too_long : (Instr.frameData 0 (List.replicate 65534 0)).wellFormed = false := by
  rw [Instr.wellFormed, List.length_replicate]; rfl

theorem test_ack_frame_too_long : (Instr.frameAck 0 (List.replicate 65534 0)).wellFormed = false := by
  rw [Instr.wellFormed, List.length_replicate]; rfl

theorem test_end_frame_too_long : (Instr.frameEndOfData 0 (List.replicate 65534 0)).wellFormed = false := by
  rw [Instr.wellFormed, List.length_replicate]; rfl

theorem test_longest_frame_fits : (Instr.frameAck 0 (List.replicate 65533 0)).wellFormed = true := by
  rw [Instr.wellFormed, List.length_replicate]; rfl

/-! ### Decoding: one word of the spec for every constructor -/

theorem test_decode_catalogue :
    decode (.host (.call 0x13 { timeout := 1 })) = .ok (.verifyPassword 1)
      ∧ decode (.host (.call 0x01 { timeout := 1 })) = .ok (.captureImage 1)
      ∧ decode (.host (.call 0x02 { a8 := 2, timeout := 1 })) = .ok (.extractFeatures 2 1)
      ∧ decode (.host (.call 0x05 { timeout := 1 })) = .ok (.createModel 1)
      ∧ decode (.host (.call 0x06 { a16 := 5, timeout := 1 })) = .ok (.storeModel 5 1)
      ∧ decode (.host (.call 0x07 { a8 := 2, a16 := 5, timeout := 1 })) = .ok (.loadModel 5 2 1)
      ∧ decode (.host (.call 0x08 { a8 := 2, timeout := 1 })) = .ok (.uploadModel 2 1)
      ∧ decode (.host (.call 0x09 { a8 := 1, timeout := 1 })) = .ok (.downloadModel 1 1)
      ∧ decode (.host (.call 0x0C { a16 := 5, timeout := 1 })) = .ok (.deleteModel 5 1)
      ∧ decode (.host (.call 0x0D { timeout := 1 })) = .ok (.emptyDatabase 1)
      ∧ decode (.host (.call 0x1B { timeout := 1 })) = .ok (.fastSearch 1)
      ∧ decode (.host (.call 0x1D { timeout := 1 })) = .ok (.getTemplateCount 1)
      ∧ decode (.host (.call 0x12 { a32 := 7, timeout := 1 })) = .ok (.setPassword 7 1) := by decide

/-- Headers of section 2.4 and reserved ones of V70, V71. -/
theorem test_decode_headers :
    decode (.host (.record ⟨0x30, { a32 := 7 }⟩)) = .ok (.execute 12 { a32 := 7 })
      ∧ decode (.host (.record ⟨0x01, { ftype := 0x02 }⟩)) = .ok (.sendFrame 0 { ftype := 0x02 })
      ∧ decode (.host (.record ⟨0x02, { timeout := 5 }⟩)) = .ok (.receiveFrame 0 { timeout := 5 })
      ∧ decode (.host (.record ⟨0x03, {}⟩)) = .error .reservedKind
      ∧ decode (.host (.record ⟨0x44, {}⟩)) = .error .reservedHeaderBits
      ∧ decode (.host (.call 0x03 {})) = .error .unknownOpcode := by decide

/-- V1, V8, V3, V9, V15, V21 and V22. -/
theorem test_decode_frames :
    decode (.wire [0xEF, 0x01, 0xFF, 0xFF, 0xFF, 0xFF, 0x01, 0x00, 0x03, 0x01, 0x00, 0x05]) = .ok (.frameCommand 0xFFFFFFFF [0x01])
      ∧ decode (.wire [0xEF, 0x01, 0xFF, 0xFF, 0xFF, 0xFF, 0x02, 0x00, 0x06, 0x01, 0x02, 0x03, 0x04, 0x00, 0x12])
        = .ok (.frameData 0xFFFFFFFF [0x01, 0x02, 0x03, 0x04])
      ∧ decode (.wire ack) = .ok (.frameAck 0xFFFFFFFF [0x00])
      ∧ decode (.wire [0xEF, 0x01, 0xFF, 0xFF, 0xFF, 0xFF, 0x08, 0x00, 0x04, 0x10, 0x20, 0x00, 0x3C])
        = .ok (.frameEndOfData 0xFFFFFFFF [0x10, 0x20])
      ∧ decode (.wire [0xEF, 0x01, 0xFF, 0xFF, 0xFF, 0xFF, 0x05, 0x00, 0x03, 0x00, 0x00, 0x08]) = .error .unknownFrameType
      ∧ decode (.wire (ack.set 11 0x0B)) = .error (.badFrame .badChecksum)
      ∧ decode (.wire (0x00 :: ack)) = .error (.badFrame .badStart) := by decide

/-- Fourteen rows of opcode_table.json by their word. The other six share their word with one of these (log 1). -/
theorem test_table_words :
    decodeTableWord 8 0x13 = some (.verifyPassword 0) ∧ decodeTableWord 8 0x01 = some (.captureImage 0)
      ∧ decodeTableWord 8 0x02 = some (.extractFeatures 0 0) ∧ decodeTableWord 8 0x05 = some (.createModel 0)
      ∧ decodeTableWord 8 0x06 = some (.storeModel 0 0) ∧ decodeTableWord 8 0x07 = some (.loadModel 0 0 0)
      ∧ decodeTableWord 8 0x08 = some (.uploadModel 0 0) ∧ decodeTableWord 8 0x09 = some (.downloadModel 0 0)
      ∧ decodeTableWord 8 0x0C = some (.deleteModel 0 0) ∧ decodeTableWord 8 0x0D = some (.emptyDatabase 0)
      ∧ decodeTableWord 8 0x1B = some (.fastSearch 0) ∧ decodeTableWord 8 0x1D = some (.getTemplateCount 0)
      ∧ decodeTableWord 8 0x12 = some (.setPassword 0 0) ∧ decodeTableWord 8 0x00 = some (.execute 0 {})
      ∧ decodeTableWord 8 0x03 = none ∧ decodeTableWord 16 0x13 = none := by decide

/-- The step after reset runs the fetched instruction, and it is a next state. -/
theorem test_fetch_runs : isNext (step (State.reset.withFetchWord 8 0x0D)) = true := by decide

/-! ### Codec vectors -/

/-- V7, V4, V14's checksum. -/
theorem test_encode :
    encodeFrame 0xFFFFFFFF 0x02 [0xAA, 0x55, 0xEF, 0x01]
        = [0xEF, 0x01, 0xFF, 0xFF, 0xFF, 0xFF, 0x02, 0x00, 0x06, 0xAA, 0x55, 0xEF, 0x01, 0x01, 0xF7]
      ∧ encodeFrame 0xFFFFFFFF 0x01 [] = [0xEF, 0x01, 0xFF, 0xFF, 0xFF, 0xFF, 0x01, 0x00, 0x02, 0x00, 0x03] := by decide

theorem test_checksum_wraps : frameChecksum 0x02 (List.replicate 257 0xFF) = 0x0005 := by decide +kernel

/-- V23, V24, V27, V28. -/
theorem test_decode_lengths :
    decodeFrame 128 [0xEF, 0x02] = .error .lenShort
      ∧ decodeFrame 128 [0xEF, 0x01, 0xFF, 0xFF, 0xFF, 0xFF, 0x07, 0x00, 0x01, 0x00, 0x00] = .error .lenShort
      ∧ decodeFrame 128 (ack ++ [0x00]) = .error .lenLong
      ∧ decodeFrame 128 (ack.take 11) = .error .lenShort := by decide

/-! ### Commands: the frame each sends (V120 to V140) -/

theorem test_verify_password :
    sentFrame (exec (.verifyPassword 1000) { idle with password := 0x12345678 })
      = some [0xEF, 0x01, 0xFF, 0xFF, 0xFF, 0xFF, 0x01, 0x00, 0x07, 0x13, 0x12, 0x34, 0x56, 0x78, 0x01, 0x2F] := by decide

theorem test_capture_image :
    sentFrame (exec (.captureImage 1000) idle)
      = some [0xEF, 0x01, 0xFF, 0xFF, 0xFF, 0xFF, 0x01, 0x00, 0x03, 0x01, 0x00, 0x05] := by decide

theorem test_extract_features :
    sentFrame (exec (.extractFeatures 2 1000) idle)
      = some [0xEF, 0x01, 0xFF, 0xFF, 0xFF, 0xFF, 0x01, 0x00, 0x04, 0x02, 0x02, 0x00, 0x09] := by decide

theorem test_extract_features_bad_slot :
    answers (exec (.extractFeatures 3 1000) idle) = some [{ kind := .callerMisuse, reason := 3 }] := by decide

theorem test_create_model :
    sentFrame (exec (.createModel 1000) idle)
      = some [0xEF, 0x01, 0xFF, 0xFF, 0xFF, 0xFF, 0x01, 0x00, 0x03, 0x05, 0x00, 0x09] := by decide

/-- V77, the last legal location. -/
theorem test_store_model :
    sentFrame (exec (.storeModel 199 1000) idle)
      = some [0xEF, 0x01, 0xFF, 0xFF, 0xFF, 0xFF, 0x01, 0x00, 0x06, 0x06, 0x01, 0x00, 0xC7, 0x00, 0xD5] := by decide

/-- V76, the first illegal one. -/
theorem test_store_model_bad_location :
    answers (exec (.storeModel 200 1000) idle) = some [{ kind := .callerMisuse, reason := 4 }] := by decide

theorem test_load_model :
    sentFrame (exec (.loadModel 5 2 1000) idle)
      = some [0xEF, 0x01, 0xFF, 0xFF, 0xFF, 0xFF, 0x01, 0x00, 0x06, 0x07, 0x02, 0x00, 0x05, 0x00, 0x15] := by decide

/-- V78: the slot is checked before the location. -/
theorem test_load_model_bad_slot_first :
    answers (exec (.loadModel 500 3 1000) idle) = some [{ kind := .callerMisuse, reason := 3 }] := by decide

theorem test_upload_model :
    sentFrame (exec (.uploadModel 2 1000) idle)
      = some [0xEF, 0x01, 0xFF, 0xFF, 0xFF, 0xFF, 0x01, 0x00, 0x04, 0x08, 0x02, 0x00, 0x0F] := by decide

theorem test_download_model :
    sentFrame (exec (.downloadModel 1 1000) idle)
      = some [0xEF, 0x01, 0xFF, 0xFF, 0xFF, 0xFF, 0x01, 0x00, 0x04, 0x09, 0x01, 0x00, 0x0F] := by decide

theorem test_delete_model :
    sentFrame (exec (.deleteModel 5 1000) idle)
      = some [0xEF, 0x01, 0xFF, 0xFF, 0xFF, 0xFF, 0x01, 0x00, 0x07, 0x0C, 0x00, 0x05, 0x00, 0x01, 0x00, 0x1A] := by decide

theorem test_empty_database :
    sentFrame (exec (.emptyDatabase 1000) idle)
      = some [0xEF, 0x01, 0xFF, 0xFF, 0xFF, 0xFF, 0x01, 0x00, 0x03, 0x0D, 0x00, 0x11] := by decide

theorem test_fast_search :
    sentFrame (exec (.fastSearch 1000) idle)
      = some [0xEF, 0x01, 0xFF, 0xFF, 0xFF, 0xFF, 0x01, 0x00, 0x08, 0x1B, 0x01, 0x00, 0x00, 0x00, 0xA3, 0x00, 0xC8] := by decide

/-- V100: the answer to FastSearch. -/
theorem test_fast_search_match :
    exec (.fastSearch 1000) (inRx search (prsDone 0x07 [0x00, 0x00, 0x05, 0x00, 0x64]) [])
      = .next { inRx search { prsDone 0x07 [0x00, 0x00, 0x05, 0x00, 0x64] with state := .off } [] with
          seqState := .idle, matchId := some 0x0005, confidence := some 0x0064, matchValid := true
          responses := [{ kind := .ok, status := some 0x00, fields := some [0x00, 0x05, 0x00, 0x64]
                          faddr := some 0xFFFFFFFF, v1 := some 0x0005, v2 := some 0x0064 }] } := by rfl

theorem test_get_template_count :
    sentFrame (exec (.getTemplateCount 1000) idle)
      = some [0xEF, 0x01, 0xFF, 0xFF, 0xFF, 0xFF, 0x01, 0x00, 0x03, 0x1D, 0x00, 0x21] := by decide

/-- V107: an ack that is too short. -/
theorem test_get_template_count_short :
    answers (exec (.getTemplateCount 1000) (inRx count (prsDone 0x07 [0x00, 0x00]) []))
      = some [{ kind := .formatError, reason := 6, faddr := some 0xFFFFFFFF }] := by decide

theorem test_set_password :
    sentFrame (exec (.setPassword 0xFFFFFFFF 1000) idle)
      = some [0xEF, 0x01, 0xFF, 0xFF, 0xFF, 0xFF, 0x01, 0x00, 0x07, 0x12, 0xFF, 0xFF, 0xFF, 0xFF, 0x04, 0x16] := by decide

/-! ### Host requests and frames -/

/-- V72 and V85's rule at MAX_PAYLOAD = 16: selector 13 is BAD_COMMAND. -/
theorem test_execute_reserved_selector :
    answers (exec (.execute 13 {}) idle) = some [{ kind := .callerMisuse, reason := 2 }] := by decide

/-- V97: the FPE's own command looped back. -/
theorem test_execute_loop_back :
    answers (exec (.execute 1 { timeout := 1000 }) (inRx capture (prsDone 0x01 [0x01]) []))
      = some [{ kind := .formatError, reason := 5, ftype := some 0x01, faddr := some 0xFFFFFFFF }] := by decide

/-- V110. -/
theorem test_send_frame :
    sentFrame (exec (.sendFrame 0 { ftype := 0x08, payload := [0x10, 0x20] }) idle)
      = some [0xEF, 0x01, 0xFF, 0xFF, 0xFF, 0xFF, 0x08, 0x00, 0x04, 0x10, 0x20, 0x00, 0x3C] := by decide

/-- V84's order at MAX_PAYLOAD = 16: the type is checked first. -/
theorem test_send_frame_bad_type_first :
    answers (exec (.sendFrame 0 { ftype := 0x03, payload := List.replicate 17 0 }) idle)
      = some [{ kind := .callerMisuse, reason := 6 }] := by decide

/-- V113: any frame type is delivered. -/
theorem test_receive_frame :
    answers (exec (.receiveFrame 0 { timeout := 5 }) (inRx collect (prsDone 0x07 [0x00]) []))
      = some [{ kind := .ok, ftype := some 0x07, faddr := some 0xFFFFFFFF, fields := some [0x00] }] := by decide

/-- V20: the acknowledgement joins `RXQ`. -/
theorem test_frame_ack :
    exec (.frameAck 0xFFFFFFFF [0x00]) { idle with rxq := [0x00] } = .next { idle with rxq := 0x00 :: ack } := by rfl

/-! ### Parser vectors: what FEED does with a byte list -/

/-- V43, V47, V49, V52: outcome and the bytes left. -/
theorem test_parser_errors :
    (feedAll 128 (startedParser 128) (0xEF :: ack)).toOption.map (fun x => (x.1.err, x.2))
        = some (some .badStart, [0x01, 0xFF, 0xFF, 0xFF, 0xFF, 0x07, 0x00, 0x03, 0x00, 0x00, 0x0A])
      ∧ (feedAll 128 (startedParser 128) [0xEF, 0x01, 0xFF, 0xFF, 0xFF, 0xFF, 0x07, 0x00, 0x01, 0x00, 0x00]).toOption.map
          (fun x => (x.1.err, x.2)) = some (some .lenShort, [0x00, 0x00])
      ∧ (feedAll 128 (startedParser 128) [0xEF, 0x01, 0xFF, 0xFF, 0xFF, 0xFF, 0x07, 0x00, 0x83]).toOption.map
          (fun x => (x.1.err, x.2)) = some (some .lenLong, [])
      ∧ (feedAll 128 (startedParser 128) (ack.set 8 0x02)).toOption.map (fun x => (x.1.err, x.2))
        = some (some .badChecksum, [0x0A]) := by decide

/-- V41 and V59. -/
theorem test_parser_completes :
    (feedAll 16 (startedParser 16) (0x00 :: ack)).toOption.map (fun x => (x.1.outcome.toOption, x.2))
        = some (some (.complete ⟨0xFFFFFFFF, 0x07, [0x00]⟩), [])
      ∧ (feedAll 16 (startedParser 16)
          [0xEF, 0x01, 0xFF, 0xFF, 0xFF, 0xFF, 0x02, 0x00, 0x06, 0xEF, 0x01, 0xEF, 0x01, 0x01, 0xE8]).toOption.map
          (fun x => (x.1.outcome.toOption, x.2)) = some (some (.complete ⟨0xFFFFFFFF, 0x02, [0xEF, 0x01, 0xEF, 0x01]⟩), []) := by decide

/-! ### Status outputs, codes and pseudo-instructions -/

/-- V150. -/
theorem test_reset_outputs :
    idle.statusOutputs
      = { reqReady := true, busy := false, address := 0xFFFFFFFF, password := 0, matchValid := false, countValid := false
          matchId := none, confidence := none, templateCount := none } := by rfl

/-- 42_command_protocol.md R185, 60_exceptions.md R242. -/
theorem test_packet_receive_error :
    (Response.mk .timeout 0 none none none none none none).isPacketReceiveError = true
      ∧ (Response.mk .deviceStatus 0 none none none none none none).isPacketReceiveError = false
      ∧ ResultKind.callerMisuse.code = 4 := by decide

/-- Program P2 and its variant P2b: step 6 follows five OK answers, and nothing follows an answer that is not OK. -/
theorem test_enroll :
    (Pseudo.enroll 5).next cfg16 (List.replicate 5 { kind := .ok }) = some ⟨0x10, { a16 := 5, timeout := 1000 }⟩
      ∧ (Pseudo.enroll 5).next cfg16 (List.replicate 4 { kind := .ok } ++ [{ kind := .deviceStatus }]) = none := by decide

/-- Program P5: the last chunk of a download goes out as EndOfData. -/
theorem test_download :
    (Pseudo.downloadTemplate 1 [[0xAA], [0xBB]]).next cfg16 [{ kind := .ok }] = some ⟨0x01, { ftype := 0x02, payload := [0xAA] }⟩
      ∧ (Pseudo.downloadTemplate 1 [[0xAA], [0xBB]]).next cfg16 [{ kind := .ok }, { kind := .ok }]
        = some ⟨0x01, { ftype := 0x08, payload := [0xBB] }⟩ := by decide

/-- R83 names no frame for an empty list of chunks (log 23). -/
theorem test_download_nothing :
    (Pseudo.downloadTemplate 1 []).next cfg16 [] = some ⟨0x1C, { a8 := 1, timeout := 1000 }⟩
      ∧ (Pseudo.downloadTemplate 1 []).next cfg16 [{ kind := .ok }] = none := by decide

/-- R179 reads the type and the address only: WRONG_TYPE is answered with no payload length and no command held. -/
theorem test_wrong_type_reads_no_payload :
    answers (step { inRx capture { prsDone 0x02 [] with n := none } [] with reqCmd := none })
      = some [{ kind := .formatError, reason := 5, ftype := some 0x02, faddr := some 0xFFFFFFFF }] := by decide

/-- R285: a run is not over while a request stands in the channel or in a turn to come, nor while one is in progress; bytes
left in `RXQ` and ticks to come do not matter. -/
theorem test_run_over :
    ({ idle with rxq := [0xEF], agenda := [.tick, .fpe] } : State).runOver = true
      ∧ (offered (.record search)).runOver = false
      ∧ ({ idle with agenda := [.tick, .offer (.record search)] } : State).runOver = false
      ∧ inTx.runOver = false := by decide

/-- R139 is for `PRS_IDX < PRS_N`: the index `PRS_N` stops (log 17). -/
theorem test_payload_index :
    feed 16 (prsIn .payload 3 3 0) 0xAA = .error .badIndex ∧ (feed 16 (prsIn .payload 2 3 0) 0xAA).isOk = true := by decide

/-! ### Witnesses: for every statement with hypotheses, a state and operands that meet them, at the boundary of each clause -/

/-- The parameters with another `MAX_PAYLOAD`. -/
def cfgOf (n : Nat) (h : n ≤ 65533) : Config := { cfg16 with maxPayload := n, maxPayload_le := h }

/-- The FPE after reset with that `MAX_PAYLOAD`. -/
def idleOf (n : Nat) (h : n ≤ 65533) : State := State.reset.resetFpe (cfgOf n h)

/-- An active parse of RECEIVE_FRAME with a timeout of 5 (X4), at this count and with these turns to come. -/
def waiting (elapsed : Word) (rxq : List Byte) (turns : List Turn) : State :=
  { inRx collect (startedParser 16) rxq with elapsedMs := elapsed, agenda := turns }

theorem turn_alone {s : State} (h : s.agenda = []) : s.fpeTurn s := .inl ⟨h, rfl⟩

theorem witness_fpeTurn : ({ idle with agenda := [.fpe] } : State).fpeTurn idle := .inr ⟨[], rfl, rfl⟩

theorem witness_ChecksumIsTheSumTruncated : (List.replicate 255 (0xFF : Byte)).length ≤ 255 := by
  rw [List.length_replicate]

theorem witness_FrameBytesStandAtTheirOffsets : (List.replicate 65533 (0xFF : Byte)).length ≤ 65533
    ∧ ∃ sum : Nat, sum = ([(0x00 : Byte)].length + 2) / 256 + ([(0x00 : Byte)].length + 2) % 256 + (0x07 : Byte).toNat
        + ([(0x00 : Byte)].map BitVec.toNat).sum :=
  ⟨by rw [List.length_replicate], _, rfl⟩

theorem witness_DecodeOfAnEncodedFrame : 65533 ≤ 65533 ∧ (List.replicate 65533 (0xFF : Byte)).length ≤ 65533 :=
  ⟨Nat.le_refl _, by rw [List.length_replicate]⟩

theorem witness_DecodedBufferIsTheEncoding : decodeFrame 1 ack = .ok ⟨0xFFFFFFFF, 0x07, [0x00]⟩ := by decide

/-- The first and the last byte of each part of a frame with one payload byte. -/
theorem witness_OneFlippedBitIsDetected :
    16 ≤ 65533 ∧ [(0x00 : Byte)].length ≤ 16 ∧ 7 < 8 ∧ (encodeFrame 0xFFFFFFFF 0x07 [0x00])[6]? = some 0x07
      ∧ (encodeFrame 0xFFFFFFFF 0x07 [0x00])[9]? = some 0x00 ∧ 9 < 9 + [(0x00 : Byte)].length
      ∧ (encodeFrame 0xFFFFFFFF 0x07 [0x00])[1]? = some 0x01
      ∧ (encodeFrame 0xFFFFFFFF 0x07 [0x00])[10]? = some 0x00 ∧ 9 + [(0x00 : Byte)].length ≤ 10
      ∧ (encodeFrame 0xFFFFFFFF 0x07 [0x00])[11]? = some 0x0A
      ∧ (encodeFrame 0xFFFFFFFF 0x07 [0x00])[2]? = some 0xFF
      ∧ (encodeFrame 0xFFFFFFFF 0x07 [0x00])[5]? = some 0xFF := by decide

theorem witness_ReorderingIsNotDetected : 16 ≤ 65533 ∧ [(1 : Byte), 2].length ≤ 16 ∧ [(1 : Byte), 2].Perm [2, 1] := by decide

theorem witness_DecodeInvertsEncode : (Instr.frameAck 0 (List.replicate 65533 0)).wellFormed = true := test_longest_frame_fits

theorem witness_StepRunsTheOfferedRequest :
    (offered (.call 0x01 { timeout := 1000 })).fpeTurn (offered (.call 0x01 { timeout := 1000 }))
      ∧ (offered (.call 0x01 { timeout := 1000 })).seqState = .idle
      ∧ (offered (.call 0x01 { timeout := 1000 })).hostq = [.call 0x01 { timeout := 1000 }]
      ∧ decode (.host (.call 0x01 { timeout := 1000 })) = .ok (.captureImage 1000) :=
  ⟨turn_alone rfl, rfl, rfl, by decide⟩

theorem witness_StepContinuesTheRequestInProgress :
    inTx.fpeTurn inTx ∧ inTx.seqState ≠ .idle ∧ inTx.holds capture = true
      ∧ decode (.host (.record capture)) = .ok (.execute 1 { timeout := 1000 }) :=
  ⟨turn_alone rfl, by decide, by decide, by decide⟩

theorem witness_StepRunsTheArrivingFrame :
    ({ idle with agenda := [.rx ack] } : State).agenda = [.rx ack] ∧ decode (.wire ack) = .ok (.frameAck 0xFFFFFFFF [0x00]) :=
  ⟨rfl, by decide⟩

theorem witness_ArrivingBytesJoinTheQueue :
    ({ idle with agenda := [.rx [0xEF, 0x02]] } : State).agenda = [.rx [0xEF, 0x02]]
      ∧ ({ inTx with agenda := [.offer (.record search)] } : State).agenda = [.offer (.record search)] := by decide

theorem witness_RequestIsHeldWhileBusy :
    inTx.seqState ≠ .idle ∧ decode (.host (.record search)) = .ok (.execute 10 { timeout := 1000 }) ∧ inTx.holds search = false := by
  decide

theorem witness_ReservedHeaderIsRejected :
    ((offered (.record ⟨0x44, {}⟩)).fpeTurn (offered (.record ⟨0x44, {}⟩)) ∧ (offered (.record ⟨0x44, {}⟩)).seqState = .idle
        ∧ (offered (.record ⟨0x44, {}⟩)).hostq = [.record ⟨0x44, {}⟩] ∧ (0x44 : Byte).extractLsb' 6 2 ≠ 0)
      ∧ (offered (.record ⟨0x03, {}⟩)).fpeTurn (offered (.record ⟨0x03, {}⟩)) ∧ (offered (.record ⟨0x03, {}⟩)).seqState = .idle
        ∧ (offered (.record ⟨0x03, {}⟩)).hostq = [.record ⟨0x03, {}⟩] ∧ (0x03 : Byte).extractLsb' 0 2 = 3 :=
  ⟨⟨turn_alone rfl, rfl, rfl, by decide⟩, turn_alone rfl, rfl, rfl, by decide⟩

theorem witness_CommandsWithoutOperandsStart :
    (idleOf 1 (by decide)).seqState = .idle ∧ 1 ≤ (idleOf 1 (by decide)).cfg.maxPayload := by decide

theorem witness_PasswordCommandsStart :
    (idleOf 5 (by decide)).seqState = .idle ∧ 5 ≤ (idleOf 5 (by decide)).cfg.maxPayload := by decide

theorem witness_SlotCommandsStartOrReject :
    (idleOf 2 (by decide)).seqState = .idle ∧ 2 ≤ (idleOf 2 (by decide)).cfg.maxPayload ∧ ((1 : Byte) = 1 ∨ (1 : Byte) = 2)
      ∧ ((2 : Byte) = 1 ∨ (2 : Byte) = 2) ∧ (0 : Byte) ≠ 1 ∧ (0 : Byte) ≠ 2 ∧ (3 : Byte) ≠ 1 ∧ (3 : Byte) ≠ 2 := by decide

theorem witness_LocationCommandsStartOrReject :
    (idleOf 5 (by decide)).seqState = .idle ∧ 5 ≤ (idleOf 5 (by decide)).cfg.maxPayload
      ∧ (199 : Half).toNat < (idleOf 5 (by decide)).cfg.libraryCapacity
      ∧ (idleOf 5 (by decide)).cfg.libraryCapacity ≤ (200 : Half).toNat := by decide

theorem witness_LoadModelStartsOrRejects :
    (idleOf 4 (by decide)).seqState = .idle ∧ 4 ≤ (idleOf 4 (by decide)).cfg.maxPayload ∧ (3 : Byte) ≠ 1 ∧ (3 : Byte) ≠ 2
      ∧ ((2 : Byte) = 1 ∨ (2 : Byte) = 2) ∧ (idleOf 4 (by decide)).cfg.libraryCapacity ≤ (200 : Half).toNat
      ∧ (199 : Half).toNat < (idleOf 4 (by decide)).cfg.libraryCapacity := by decide

theorem witness_FastSearchStarts :
    (idleOf 6 (by decide)).seqState = .idle ∧ 6 ≤ (idleOf 6 (by decide)).cfg.maxPayload := by decide

/-- A reserved selector, a rejected argument, a payload one byte too long (V85) and one that just fits. -/
theorem witness_ExecuteStartsItsCommand :
    idle.seqState = .idle ∧ 12 < (13 : BitVec 4).toNat
      ∧ argCheck idle.cfg .extractFeatures { a8 := 3 } = .error .badSlot
      ∧ argCheck (cfgOf 4 (by decide)) .verifyPassword {} = .ok ()
      ∧ 4 < (cmdPayload (cfgOf 4 (by decide)) 0 .verifyPassword {}).length
      ∧ (cmdPayload (cfgOf 5 (by decide)) 0 .verifyPassword {}).length ≤ 5 := by decide

theorem witness_SendFrameStartsOrRejects :
    idle.seqState = .idle ∧ ((0x03 : Byte) ≠ 0x01 ∧ (0x03 : Byte) ≠ 0x02 ∧ (0x03 : Byte) ≠ 0x07 ∧ (0x03 : Byte) ≠ 0x08)
      ∧ idle.cfg.maxPayload < (List.replicate 17 (0 : Byte)).length
      ∧ (List.replicate 16 (0 : Byte)).length ≤ idle.cfg.maxPayload := by decide

theorem witness_ReceiveFrameStartsAParse : idle.seqState = .idle := rfl

/-- The last byte of the frame, with the transport ready and not. -/
theorem witness_TransmitStepWritesTheNextByte :
    ({ inTx with txIdx := 11 } : State).fpeTurn { inTx with txIdx := 11 } ∧ inTx.seqState = .tx
      ∧ (11 : BitVec 17).toNat < inTx.txLen.toNat ∧ inTx.txBuf[11]? = some (some 0x05) ∧ inTx.txReady = true
      ∧ ({ inTx with txIdx := 11, txReady := false } : State).txReady = false
      ∧ ({ inTx with agenda := [.txReady false] } : State).agenda = [.txReady false] :=
  ⟨turn_alone rfl, by decide, by decide, by decide, by decide, by decide, by decide⟩

theorem witness_EndOfTransmitStartsTheParseOrResponds :
    sentAll.fpeTurn sentAll ∧ sentAll.seqState = .tx ∧ sentAll.txIdx = sentAll.txLen ∧ sentAll.reqKind = some 0
      ∧ sentAll.reqTimeout = some 1000 ∧ ({ sentAll with reqKind := some 1 } : State).reqKind = some 1 :=
  ⟨turn_alone rfl, by decide, by decide, by decide, by decide, by decide⟩

theorem witness_ParserHuntsTheStartMarker :
    (inRx capture (prsIn .waitStartHi 0 0 0) [0xEF]).fpeTurn (inRx capture (prsIn .waitStartHi 0 0 0) [0xEF])
      ∧ (inRx capture (prsIn .waitStartHi 0 0 0) [0xEF]).seqState = .rx
      ∧ (inRx capture (prsIn .waitStartHi 0 0 0) [0xEF]).prs.state = .waitStartHi
      ∧ (inRx capture (prsIn .waitStartHi 0 0 0) [0xEF]).rxq = [0xEF]
      ∧ (inRx capture (prsIn .waitStartLo 0 0 0) [0x02]).prs.state = .waitStartLo :=
  ⟨turn_alone rfl, rfl, rfl, rfl, rfl⟩

theorem witness_ParserCapturesTheAddress :
    (inRx capture (prsIn .addr 0 0 0) [0x12]).fpeTurn (inRx capture (prsIn .addr 0 0 0) [0x12])
      ∧ (inRx capture (prsIn .addr 0 0 0) [0x12]).seqState = .rx ∧ (inRx capture (prsIn .addr 0 0 0) [0x12]).rxq = [0x12]
      ∧ (prsIn .addr 0 0 0).state = .addr ∧ (prsIn .addr 0 0 0).idx = 0 ∧ (prsIn .addr 1 0 0).idx = 1
      ∧ (prsIn .addr 2 0 0).idx = 2 ∧ (prsIn .addr 3 0 0).idx = 3
      ∧ (prsIn .addr 3 0 0).addr = ⟨some 0xFF, some 0xFF, some 0xFF, some 0xFF⟩ :=
  ⟨turn_alone rfl, rfl, rfl, rfl, rfl, rfl, rfl, rfl, rfl⟩

theorem witness_ParserCapturesTypeAndLengthHigh :
    (inRx capture (prsIn .type 3 0 0) [0x07]).fpeTurn (inRx capture (prsIn .type 3 0 0) [0x07])
      ∧ (inRx capture (prsIn .type 3 0 0) [0x07]).seqState = .rx ∧ (inRx capture (prsIn .type 3 0 0) [0x07]).rxq = [0x07]
      ∧ (prsIn .type 3 0 0).state = .type ∧ (prsIn .lenHi 3 0 7).state = .lenHi ∧ (prsIn .lenHi 3 0 7).acc = some 7 :=
  ⟨turn_alone rfl, rfl, rfl, rfl, rfl, rfl⟩

/-- Lengths 1 and 2, `MAX_PAYLOAD + 2` and one more. -/
theorem witness_ParserChecksTheLength :
    (inRx capture (prsIn .lenLo 3 0 7) [18]).fpeTurn (inRx capture (prsIn .lenLo 3 0 7) [18])
      ∧ (inRx capture (prsIn .lenLo 3 0 7) [18]).seqState = .rx ∧ (inRx capture (prsIn .lenLo 3 0 7) [18]).rxq = [18]
      ∧ (prsIn .lenLo 3 0 7).state = .lenLo ∧ (prsIn .lenLo 3 0 7).lenHi = some 0 ∧ (prsIn .lenLo 3 0 7).acc = some 7
      ∧ (0 : Byte).toNat * 256 + (1 : Byte).toNat < 2
      ∧ cfg16.maxPayload + 2 < (0 : Byte).toNat * 256 + (19 : Byte).toNat
      ∧ 2 ≤ (0 : Byte).toNat * 256 + (2 : Byte).toNat
      ∧ (0 : Byte).toNat * 256 + (18 : Byte).toNat ≤ cfg16.maxPayload + 2 :=
  ⟨turn_alone rfl, rfl, rfl, rfl, rfl, rfl, by decide, by decide, by decide, by decide⟩

/-- The last of `MAX_PAYLOAD` payload bytes, and the one before it. -/
theorem witness_ParserStoresThePayload :
    (inRx capture (prsIn .payload 15 16 7) [0xAA]).fpeTurn (inRx capture (prsIn .payload 15 16 7) [0xAA])
      ∧ (inRx capture (prsIn .payload 15 16 7) [0xAA]).seqState = .rx
      ∧ (inRx capture (prsIn .payload 15 16 7) [0xAA]).rxq = [0xAA]
      ∧ (prsIn .payload 15 16 7).state = .payload ∧ (prsIn .payload 15 16 7).n = some 16 ∧ (prsIn .payload 15 16 7).acc = some 7
      ∧ (prsIn .payload 15 16 7).idx.toNat < (16 : Half).toNat
      ∧ (prsIn .payload 15 16 7).idx.toNat < (prsIn .payload 15 16 7).payload.length
      ∧ (prsIn .payload 14 16 7).idx.toNat + 1 ≠ (16 : Half).toNat :=
  ⟨turn_alone rfl, rfl, rfl, rfl, rfl, rfl, by decide, by decide, by decide⟩

theorem witness_ParserComparesTheChecksum :
    (inRx capture (prsIn .sumLo 0 1 0x0A) [0x0A]).fpeTurn (inRx capture (prsIn .sumLo 0 1 0x0A) [0x0A])
      ∧ (inRx capture (prsIn .sumLo 0 1 0x0A) [0x0A]).seqState = .rx
      ∧ (inRx capture (prsIn .sumLo 0 1 0x0A) [0x0A]).rxq = [0x0A]
      ∧ (prsIn .sumHi 0 1 0x0A).state = .sumHi ∧ (prsIn .sumLo 0 1 0x0A).state = .sumLo
      ∧ (prsIn .sumLo 0 1 0x0A).sumHi = some 0 ∧ (prsIn .sumLo 0 1 0x0A).acc = some 0x0A :=
  ⟨turn_alone rfl, rfl, rfl, rfl, rfl, rfl, rfl⟩

/-- A tick while IDLE, and in a parse: with a byte to read, before the timeout, and in the last millisecond before the poll
limit. -/
theorem witness_TickCountsWhileTheParserIsActive :
    (({ idle with agenda := [.tick] } : State).agenda = [.tick] ∧ idle.seqState ≠ .rx)
      ∧ (waiting 6 [0x00] [.tick]).agenda = [.tick] ∧ (waiting 6 [0x00] [.tick]).seqState = .rx
      ∧ (waiting 6 [0x00] [.tick]).prs.state.isWait = true ∧ (waiting 6 [0x00] [.tick]).prsTimeout = some 5
      ∧ (waiting 6 [0x00] [.tick]).rxq ≠ []
      ∧ (waiting 4 [] [.tick]).elapsedMs.toNat < (5 : Word).toNat
      ∧ (waiting 5 [] [.tick]).elapsedMs.toNat < min ((5 : Word).toNat + (waiting 5 [] [.tick]).cfg.pollMs) 0xFFFFFFFF := by decide

theorem witness_TimeoutNeedsAnEmptyQueueAndThePassedTime :
    (waiting 5 [] []).fpeTurn (waiting 5 [] []) ∧ (waiting 5 [] []).seqState = .rx
      ∧ (waiting 5 [] []).prs.state.isWait = true ∧ (waiting 5 [] []).prsTimeout = some 5
      ∧ ((waiting 5 [] []).rxq = [] ∧ (5 : Word).toNat ≤ (waiting 5 [] []).elapsedMs.toNat)
      ∧ ((waiting 4 [] []).rxq = [] ∧ (waiting 4 [] []).elapsedMs.toNat < (5 : Word).toNat)
      ∧ (waiting 6 [0x00] []).rxq = [0x00] ∧ isNext (step (waiting 6 [0x00] [])) = true :=
  ⟨turn_alone rfl, by decide, by decide, by decide, by decide, by decide, by decide, by decide⟩

theorem witness_TickWaitsForTheTimeoutAtThePollLimit :
    (waiting 6 [] [.tick]).agenda = [.tick] ∧ (waiting 6 [] [.tick]).seqState = .rx
      ∧ (waiting 6 [] [.tick]).prs.state.isWait = true ∧ (waiting 6 [] [.tick]).rxq = []
      ∧ (waiting 6 [] [.tick]).prsTimeout = some 5 ∧ (5 : Word).toNat ≤ (waiting 6 [] [.tick]).elapsedMs.toNat
      ∧ min ((5 : Word).toNat + (waiting 6 [] [.tick]).cfg.pollMs) 0xFFFFFFFF ≤ (waiting 6 [] [.tick]).elapsedMs.toNat := by decide

/-- X4 with its seven ticks, and with FPE turns before, between and after them. -/
theorem witness_SilenceTimesOutWithinOnePoll :
    ∀ turns ∈ [List.replicate 7 Turn.tick, .fpe :: .tick :: .fpe :: List.replicate 6 .tick ++ [.fpe]],
      (waiting 0 [] turns).seqState = .rx ∧ (waiting 0 [] turns).prs.state.isWait = true ∧ (waiting 0 [] turns).rxq = []
        ∧ (waiting 0 [] turns).prsTimeout = some 5 ∧ (waiting 0 [] turns).elapsedMs = 0
        ∧ (∀ turn ∈ turns, turn = .tick ∨ turn = .fpe)
        ∧ (5 : Word).toNat + (waiting 0 [] turns).cfg.pollMs < turns.count .tick
        ∧ (waiting 0 [] turns).agenda = turns ++ [] := by decide

/-- At the poll limit, where the tick must wait, and just before the timeout. -/
theorem witness_SilentParseStaysWithinThePollLimit :
    (waiting 6 [] [.tick]).seqState = .rx ∧ (waiting 6 [] [.tick]).prs.state.isWait = true ∧ (waiting 6 [] [.tick]).rxq = []
      ∧ (waiting 6 [] [.tick]).prsTimeout = some 5
      ∧ (waiting 6 [] [.tick]).elapsedMs.toNat ≤ (5 : Word).toNat + (waiting 6 [] [.tick]).cfg.pollMs
      ∧ (waiting 6 [] [.tick]).agenda = [.tick] ∧ isNext (step (waiting 6 [] [.tick])) = true
      ∧ (waiting 4 [] [.fpe]).agenda = [.fpe] ∧ isNext (step (waiting 4 [] [.fpe])) = true := by decide

theorem witness_EndlessNoiseKeepsTheParseRunning :
    (waiting 6 [0x00, 0x01, 0xEF] []).seqState = .rx ∧ (waiting 6 [0x00, 0x01, 0xEF] []).prs.state = .waitStartHi
      ∧ (0xEF : Byte) ∉ [(0x00 : Byte), 0x01] ∧ (waiting 6 [0x00, 0x01, 0xEF] []).rxq = [0x00, 0x01] ++ [0xEF]
      ∧ (waiting 6 [0x00, 0x01, 0xEF] []).agenda = [] := by decide

/-- X3: one noise byte, the acknowledgement, and one byte behind it. -/
theorem witness_ResynchronisationOnNoise :
    [(0x00 : Byte)].length ≤ idle.cfg.maxPayload ∧ (0xEF : Byte) ∉ [(0x00 : Byte)]
      ∧ ({ idle with rxq := 0x00 :: ack ++ [0xEF] } : State).agenda = []
      ∧ ({ idle with rxq := 0x00 :: ack ++ [0xEF] } : State).rxq = [0x00] ++ encodeFrame 0xFFFFFFFF 0x07 [0x00] ++ [0xEF] := by decide

/-- V46. -/
theorem witness_StrayMarkerByteEndsTheParse :
    (0xEF : Byte) ∉ [(0x12 : Byte)] ∧ (0x34 : Byte) ≠ 0x01 ∧ idle.agenda = []
      ∧ ({ idle with rxq := 0x12 :: 0xEF :: 0x34 :: ack } : State).rxq = [0x12] ++ 0xEF :: 0x34 :: ack := by decide

/-- A buffer for every clause: V20, a wrong marker, lengths 1, `MAX_PAYLOAD + 3` and `MAX_PAYLOAD + 2` with bytes missing,
V27 and V21. -/
theorem witness_DecoderAndParserAgree :
    16 ≤ 65533 ∧ ack = [0xEF, 0x01, 0xFF, 0xFF, 0xFF, 0xFF, 0x07, 0x00, 0x03] ++ [0x00, 0x00, 0x0A]
      ∧ 2 ≤ [(0x00 : Byte), 0x00, 0x0A].length ∧ 3 = (0 : Byte).toNat * 256 + (3 : Byte).toNat
      ∧ decodeFrame 16 ack = .ok ⟨0xFFFFFFFF, 0x07, [0x00]⟩ ∧ (0x02 : Byte) ≠ 0x01
      ∧ (0 : Byte).toNat * 256 + (1 : Byte).toNat < 2 ∧ 16 + 2 < (0 : Byte).toNat * 256 + (19 : Byte).toNat
      ∧ ((0 : Byte).toNat * 256 + (18 : Byte).toNat ≤ 16 + 2 ∧ ack.length < 18 + 9)
      ∧ 3 + 9 < (ack ++ [0x00]).length
      ∧ (ack.set 11 0x0B).length = 3 + 9 ∧ decodeFrame 16 (ack.set 11 0x0B) = .error .badChecksum := by decide

/-- A parse that timed out, and one that failed for each reason. -/
theorem witness_FailedParseIsPropagated :
    (inRx capture (prsIn .timeout 0 0 0) []).fpeTurn (inRx capture (prsIn .timeout 0 0 0) [])
      ∧ (inRx capture (prsIn .timeout 0 0 0) []).seqState = .rx ∧ (prsIn .timeout 0 0 0).state = .timeout
      ∧ ∀ r : FormatReason, ((prsIn .sumLo 0 0 0).fail r).state = .err ∧ ((prsIn .sumLo 0 0 0).fail r).err = some r :=
  ⟨turn_alone rfl, rfl, rfl, fun _ => ⟨rfl, rfl⟩⟩

theorem witness_ExecuteReportsTheReply :
    (inRx capture (prsDone 0x02 [0x01]) []).fpeTurn (inRx capture (prsDone 0x02 [0x01]) [])
      ∧ (inRx capture (prsDone 0x02 [0x01]) []).seqState = .rx ∧ (prsDone 0x02 [0x01]).state = .done
      ∧ (inRx capture (prsDone 0x02 [0x01]) []).reqKind = some 0
      ∧ (prsDone 0x02 [0x01]).ftype = some 0x02 ∧ (prsDone 0x02 [0x01]).addr.word = some 0xFFFFFFFF ∧ (0x02 : Byte) ≠ 0x07
      ∧ (prsDone 0x07 []).ftype = some 0x07 ∧ (prsDone 0x07 []).addr.word = some 0xFFFFFFFF ∧ (prsDone 0x07 []).n = some 0
      ∧ (prsDone 0x07 [0x02]).frame = .ok ⟨0xFFFFFFFF, 0x07, [0x02]⟩ ∧ (0x02 : Byte) ≠ 0x00 :=
  ⟨turn_alone rfl, by decide, by decide, by decide, by decide, by decide, by decide, by decide, by decide, by decide, by decide,
    by decide⟩

theorem witness_SuccessfulAckIsOk :
    (inRx capture (prsDone 0x07 [0x00]) []).fpeTurn (inRx capture (prsDone 0x07 [0x00]) [])
      ∧ (inRx capture (prsDone 0x07 [0x00]) []).seqState = .rx ∧ (prsDone 0x07 [0x00]).state = .done
      ∧ (inRx capture (prsDone 0x07 [0x00]) []).reqKind = some 0
      ∧ (inRx capture (prsDone 0x07 [0x00]) []).reqCmd = some Command.captureImage.selector
      ∧ (prsDone 0x07 [0x00]).frame = .ok ⟨0xFFFFFFFF, 0x07, [0x00]⟩
      ∧ Command.captureImage ≠ .fastSearch ∧ Command.captureImage ≠ .getTemplateCount :=
  ⟨turn_alone rfl, by decide, by decide, by decide, by decide, by decide, by decide, by decide⟩

/-- Every command with its acknowledgement read. -/
theorem witness_CatalogueCommandsFinish :
    (inRx capture (prsDone 0x07 [0x00]) []).seqState = .rx ∧ (prsDone 0x07 [0x00]).state = .done
      ∧ (prsDone 0x07 [0x00]).frame = .ok ⟨0xFFFFFFFF, 0x07, [0x00]⟩
      ∧ (inRx capture (prsDone 0x07 [0x00]) []).holds ⟨0x04, { timeout := 1000 }⟩ = true
      ∧ (inRx ⟨0x00, { timeout := 1000 }⟩ (prsDone 0x07 [0x00]) []).holds ⟨0x00, { timeout := 1000 }⟩ = true
      ∧ (inRx ⟨0x08, { a8 := 2, timeout := 1000 }⟩ (prsDone 0x07 [0x00]) []).holds ⟨0x08, { a8 := 2, timeout := 1000 }⟩ = true
      ∧ (inRx ⟨0x0C, { timeout := 1000 }⟩ (prsDone 0x07 [0x00]) []).holds ⟨0x0C, { timeout := 1000 }⟩ = true
      ∧ (inRx ⟨0x10, { a16 := 199, timeout := 1000 }⟩ (prsDone 0x07 [0x00]) []).holds ⟨0x10, { a16 := 199, timeout := 1000 }⟩ = true
      ∧ (inRx ⟨0x14, { a8 := 2, a16 := 199, timeout := 1000 }⟩ (prsDone 0x07 [0x00]) []).holds ⟨0x14, { a8 := 2, a16 := 199, timeout := 1000 }⟩ = true
      ∧ (inRx ⟨0x18, { a8 := 1, timeout := 1000 }⟩ (prsDone 0x07 [0x00]) []).holds ⟨0x18, { a8 := 1, timeout := 1000 }⟩ = true
      ∧ (inRx ⟨0x1C, { a8 := 1, timeout := 1000 }⟩ (prsDone 0x07 [0x00]) []).holds ⟨0x1C, { a8 := 1, timeout := 1000 }⟩ = true
      ∧ (inRx ⟨0x20, { a16 := 199, timeout := 1000 }⟩ (prsDone 0x07 [0x00]) []).holds ⟨0x20, { a16 := 199, timeout := 1000 }⟩ = true
      ∧ (inRx ⟨0x24, { timeout := 1000 }⟩ (prsDone 0x07 [0x00]) []).holds ⟨0x24, { timeout := 1000 }⟩ = true
      ∧ (inRx ⟨0x30, { a32 := 7, timeout := 1000 }⟩ (prsDone 0x07 [0x00]) []).holds ⟨0x30, { a32 := 7, timeout := 1000 }⟩ = true := by decide

/-- The shortest full answer, and one byte less (V103's shape). -/
theorem witness_FastSearchRecordsTheMatch :
    (inRx search (prsDone 0x07 [0x00, 0x00, 0x05, 0x00, 0x64]) []).seqState = .rx
      ∧ (inRx search (prsDone 0x07 [0x00, 0x00, 0x05, 0x00, 0x64]) []).prs.state = .done
      ∧ (inRx search (prsDone 0x07 [0x00, 0x00, 0x05, 0x00, 0x64]) []).holds search = true
      ∧ (prsDone 0x07 [0x00, 0x00, 0x05, 0x00, 0x64]).frame = .ok ⟨0xFFFFFFFF, 0x07, [0x00, 0x00, 0x05, 0x00, 0x64]⟩
      ∧ [(0x00 : Byte), 0x05, 0x00].length < 4
      ∧ (prsDone 0x07 [0x00, 0x00, 0x05, 0x00]).frame = .ok ⟨0xFFFFFFFF, 0x07, [0x00, 0x00, 0x05, 0x00]⟩ := by decide

/-- V105 and V107. -/
theorem witness_GetTemplateCountRecordsTheCount :
    (inRx count (prsDone 0x07 [0x00, 0x00, 0x03]) []).seqState = .rx
      ∧ (inRx count (prsDone 0x07 [0x00, 0x00, 0x03]) []).prs.state = .done
      ∧ (inRx count (prsDone 0x07 [0x00, 0x00, 0x03]) []).holds count = true
      ∧ (prsDone 0x07 [0x00, 0x00, 0x03]).frame = .ok ⟨0xFFFFFFFF, 0x07, [0x00, 0x00, 0x03]⟩
      ∧ [(0x00 : Byte)].length < 2 ∧ (prsDone 0x07 [0x00, 0x00]).frame = .ok ⟨0xFFFFFFFF, 0x07, [0x00, 0x00]⟩ := by decide

theorem witness_ReceiveFrameDeliversAnyType :
    (inRx collect (prsDone 0x08 []) []).fpeTurn (inRx collect (prsDone 0x08 []) [])
      ∧ (inRx collect (prsDone 0x08 []) []).seqState = .rx ∧ (prsDone 0x08 []).state = .done
      ∧ (inRx collect (prsDone 0x08 []) []).reqKind = some 2 ∧ (prsDone 0x08 []).frame = .ok ⟨0xFFFFFFFF, 0x08, []⟩ :=
  ⟨turn_alone rfl, by decide, by decide, by decide, by decide⟩

/-- FastSearch with the reply of V100, one noise byte before it and one byte behind it; the other commands, a nonzero status
and the longest replies that are too short likewise. -/
theorem witness_ExecuteRunsFromRequestToResponse :
    ({ offered (.record search) with rxq := 0x00 :: ackSearch ++ [0xEF] } : State).agenda = []
      ∧ (offered (.record search)).seqState = .idle ∧ (offered (.record search)).txReady = true
      ∧ (offered (.record search)).hostq = [.record ⟨headerOf Command.fastSearch.selector 0, { timeout := 1000 }⟩]
      ∧ argCheck cfg16 .fastSearch { timeout := 1000 } = .ok ()
      ∧ (cmdPayload cfg16 0 .fastSearch { timeout := 1000 }).length ≤ cfg16.maxPayload
      ∧ [(0x00 : Byte), 0x05, 0x00, 0x64].length + 1 ≤ cfg16.maxPayload ∧ (0xEF : Byte) ∉ [(0x00 : Byte)]
      ∧ 0x00 :: ackSearch ++ [0xEF] = [0x00] ++ encodeFrame 0xFFFFFFFF 0x07 (0x00 :: [0x00, 0x05, 0x00, 0x64]) ++ [0xEF]
      ∧ argCheck cfg16 .getTemplateCount {} = .ok () ∧ argCheck cfg16 .captureImage {} = .ok () ∧ (0x02 : Byte) ≠ 0
      ∧ Command.captureImage ≠ .fastSearch ∧ Command.captureImage ≠ .getTemplateCount
      ∧ [(0x00 : Byte), 0x05, 0x00].length < 4 ∧ [(0x00 : Byte)].length < 2 := by decide

theorem witness_ResetLoadsEveryRegister : ({ inTx with agenda := [.rst cfg16] } : State).agenda = [.rst cfg16] := rfl

theorem witness_StatusOutputsFollowTheState :
    idle.seqState = .idle ∧ idle.matchValid = false ∧ idle.countValid = false
      ∧ ({ idle with matchValid := true, countValid := true } : State).matchValid = true := by decide

/-- The invariant holds while CaptureImage is being sent. -/
theorem inTx_inv : inTx.Inv where
  parser := by simp [inTx, idle, State.sending, State.resetFpe, Parser.wf, Parser.stateOk, Parser.reset]
  txCapacity := by decide
  address := rfl
  password := rfl
  matchId := rfl
  confidence := rfl
  templateCount := rfl
  parserUse := by decide
  timeout := by decide
  request := fun _ => ⟨capture, .send 0x01 [0x01], by decide, by decide, 0x01, [0x01], rfl, by
    refine ⟨?_, ?_, ?_⟩ <;> decide⟩

theorem witness_EveryStepKeepsTheInvariant : inTx.Inv ∧ isNext (step inTx) = true := ⟨inTx_inv, by decide⟩

theorem witness_NoStepOfTheInvariantFaults : inTx.Inv := inTx_inv

theorem no_reset_pending {s : State} (h : s.agenda = []) : ∀ cfg rest, s.agenda ≠ .rst cfg :: rest := by simp [h]

theorem witness_OnlyResetWritesAddressAndPassword :
    isNext (step inTx) = true ∧ ∀ cfg rest, inTx.agenda ≠ .rst cfg :: rest := ⟨by decide, no_reset_pending rfl⟩

/-- The two steps that change a session result. -/
theorem witness_SessionResultsChangeOnlyWithAnOkAnswer :
    (∃ t, step (inRx search (prsDone 0x07 [0x00, 0x00, 0x05, 0x00, 0x64]) []) = .next t ∧ t.matchId = some 0x0005)
      ∧ (∃ t, step (inRx count (prsDone 0x07 [0x00, 0x00, 0x03]) []) = .next t ∧ t.templateCount = some 0x0003)
      ∧ ∀ cfg rest, (inRx search (prsDone 0x07 [0x00, 0x00, 0x05, 0x00, 0x64]) []).agenda ≠ .rst cfg :: rest :=
  ⟨⟨_, rfl, rfl⟩, ⟨_, rfl, rfl⟩, no_reset_pending rfl⟩

theorem witness_StreamsMoveOneByteInOrder :
    isNext (step inTx) = true ∧ isNext (step (waiting 0 [0xEF] [])) = true := by decide

theorem witness_ResponsesComeOneAtATimeAndEndTheRequest :
    (∃ t, step (inRx capture (prsDone 0x07 [0x00]) []) = .next t ∧ t.seqState = .idle)
      ∧ (inRx capture (prsDone 0x07 [0x00]) []).seqState ≠ .idle
      ∧ ∀ cfg rest, (inRx capture (prsDone 0x07 [0x00]) []).agenda ≠ .rst cfg :: rest :=
  ⟨⟨_, rfl, rfl⟩, by decide, no_reset_pending rfl⟩

theorem witness_NoRequestIsTakenWhileBusy :
    isNext (step inTx) = true ∧ inTx.seqState ≠ .idle ∧ ∀ cfg rest, inTx.agenda ≠ .rst cfg :: rest :=
  ⟨by decide, by decide, no_reset_pending rfl⟩

end Sys2Proof.Tests
end

section
/-! SUPPORT. The invariant of the machine (10_state.md R20 to R32): every move keeps it, and no rule that runs in a state of
the invariant reads a register without a value. The statements of the family 10_state.md are settled from it. -/

namespace Sys2Proof.Machine

variable {s t : State} {r : Request} {plan : Plan}

/-! ### What the invariant says of each phase -/

theorem State.phaseOk_tx (hs : s.seqState = .tx) :
    s.phaseOk r plan ↔ ∃ ty p, plan = .send ty p ∧ s.txHolds (encodeFrame s.address ty p) := by
  simp only [State.phaseOk, hs]

theorem State.phaseOk_rx (hs : s.seqState = .rx) : s.phaseOk r plan ↔ r.kind ≠ kindSendFrame := by
  simp only [State.phaseOk, hs]

/-- In TX the buffer holds the frame of the request that the registers hold (R22, R24). -/
theorem State.Inv.sendsFrame (h : s.Inv) (hs : s.seqState = .tx) :
    ∃ r ty p, s.holds r = true ∧ check s.cfg s.password r = .ok (.send ty p)
      ∧ s.txHolds (encodeFrame s.address ty p) := by
  obtain ⟨r, plan, hr, hc, hp⟩ := h.request (by simp [hs])
  obtain ⟨ty, p, rfl, htx⟩ := (State.phaseOk_tx hs).mp hp
  exact ⟨r, ty, p, hr, hc, htx⟩

/-- In RX the registers hold a request that collects a frame (R22, R23). -/
theorem State.Inv.collectsFrame (h : s.Inv) (hs : s.seqState = .rx) :
    ∃ r plan, s.holds r = true ∧ check s.cfg s.password r = .ok plan ∧ r.kind ≠ kindSendFrame := by
  obtain ⟨r, plan, hr, hc, hp⟩ := h.request (by simp [hs])
  exact ⟨r, plan, hr, hc, (State.phaseOk_rx hs).mp hp⟩

/-- In RX the timeout of the parse holds a value (R27). -/
theorem State.Inv.prsTimeout_eq_some (h : s.Inv) (hs : s.seqState = .rx) : ∃ w, s.prsTimeout = some w := by
  obtain ⟨r, -, hr, -, -⟩ := h.collectsFrame hs
  obtain ⟨-, -, ht, -⟩ := holds_iff.mp hr
  exact ⟨_, (h.timeout hs).trans ht⟩

/-! ### The named operations keep the invariant -/

/-- The invariant does not speak of the other agents, the streams and the clock's count. -/
theorem State.Inv.ports (h : s.Inv) (agenda : List Turn) (hostq : List HostLine) (rxq txStream : List Byte)
    (txReady : Bool) (responses : List Response) (elapsedMs : Word) :
    ({ s with agenda, hostq, rxq, txStream, txReady, responses, elapsedMs } : State).Inv :=
  { h with }

/-- A request copied in IDLE is not yet in progress (42_command_protocol.md R170). -/
theorem State.Inv.latch (h : s.Inv) (hs : s.seqState = .idle) (r : Request) : (s.latch r).Inv :=
  { h with
    timeout := fun hrx => absurd (hs.symm.trans hrx) (by decide)
    request := fun hb => absurd hs hb }

/-- A response outside RX ends the request with the parser already OFF (60_exceptions.md R240). -/
theorem State.Inv.respond (h : s.Inv) (hs : s.seqState ≠ .rx) (r : Response) : (s.respond r).Inv :=
  { h with
    parserUse := by simp [h.parserUse.mpr hs]
    timeout := by simp
    request := by simp }

/-- The finish step ends the request and takes the parser to OFF (42_command_protocol.md R177). -/
theorem State.Inv.conclude (h : s.Inv) (r : Response) : (s.conclude r).Inv :=
  { h with
    parser := off_wf h.parser
    parserUse := by simp
    timeout := by simp
    request := by simp }

/-- A transmission starts with the whole frame in `TXBUF`, if `TX_LEN` can state its length (R24). -/
theorem startTransmit_txHolds {frame : List Byte} (s : State) (hl : frame.length < 2 ^ 17) :
    (s.startTransmit frame).txHolds frame :=
  ⟨by simp, by simpa using hl, by simp⟩

/-- A request that passed CHECK starts to send its frame (R24, 42_command_protocol.md R174). -/
theorem State.Inv.startTransmit {ty : Byte} {p : List Byte} (h : s.Inv) (hs : s.seqState = .idle)
    (hr : s.holds r = true) (hc : check s.cfg s.password r = .ok (.send ty p)) :
    (s.startTransmit (encodeFrame s.address ty p)).Inv := by
  have hp : p.length ≤ s.cfg.maxPayload := by
    obtain ⟨_, _, hplan, hp, -⟩ | ⟨hplan, -⟩ := check_ok hc
    · cases hplan; exact hp
    · cases hplan
  have hmax := s.cfg.maxPayload_le
  have hcap := h.txCapacity
  exact { h with
    txCapacity := by simp [hcap]; omega
    parserUse := by simpa [hs] using h.parserUse
    timeout := by simp
    request := fun _ => ⟨r, _, hr, hc, ty, p, rfl, startTransmit_txHolds s (by simp; omega)⟩ }

/-- A request that passed CHECK and collects a frame starts its parse (R27, 41_stream_assembler.md R131). -/
theorem State.Inv.startParse {w : Word} (h : s.Inv) (ht : s.reqTimeout = some w) (hr : s.holds r = true)
    (hc : check s.cfg s.password r = .ok plan) (hk : r.kind ≠ kindSendFrame) : (s.startParse w).Inv :=
  { h with
    parser := started_wf _
    parserUse := by simp
    timeout := fun _ => ht.symm
    request := fun _ => ⟨r, plan, hr, hc, hk⟩ }

/-- A reset takes any state to one of the invariant (70_reset_and_hazards.md R271). -/
theorem resetFpe_inv (s : State) (cfg : Config) : (s.resetFpe cfg).Inv where
  parser := ⟨by simp [Parser.reset], trivial⟩
  txCapacity := by simp
  address := rfl
  password := rfl
  matchId := rfl
  confidence := rfl
  templateCount := rfl
  parserUse := by simp [Parser.reset]
  timeout := by simp
  request := by simp

/-- A tick moves the clock's count only (41_stream_assembler.md R142). -/
theorem State.Inv.tick (h : s.Inv) : s.tick.Inv := by
  unfold State.tick
  split
  · exact h.ports ..
  · exact h

/-! ### Every step keeps the invariant -/

/-- The accept step keeps the invariant, whether it rejects the request or starts it (42_command_protocol.md R170). -/
theorem State.Inv.accept (h : s.Inv) (hs : s.seqState = .idle) (r : Request) : (accept r s).Inv := by
  have hl := h.latch hs r
  obtain ⟨e, -, he⟩ | ⟨ty, p, hc, he⟩ | ⟨hc, he⟩ := accept_cases r s <;> rw [he]
  · exact hl.respond (by simp [hs]) _
  · exact hl.startTransmit hs (holds_latch r s) hc
  · have hk : r.kind = kindReceiveFrame := by
      obtain ⟨_, _, hplan, -⟩ | ⟨-, hk⟩ := check_ok hc
      · cases hplan
      · exact hk
    exact hl.startParse rfl (holds_latch r s) hc (by rw [hk]; decide)

/-- A byte sent moves `TX_IDX` inside the frame (R24, 42_command_protocol.md R175). -/
theorem State.Inv.transmit (h : s.Inv) (hs : s.seqState = .tx) (hi : s.txIdx.toNat < s.txLen.toNat) (b : Byte) :
    ({ s.transmit b with txIdx := s.txIdx + 1 } : State).Inv := by
  obtain ⟨r, ty, p, hr, hc, hbuf, hlen, -⟩ := h.sendsFrame hs
  have hidx : (s.txIdx + 1).toNat ≤ s.txLen.toNat := by
    have := s.txLen.isLt
    simp [BitVec.toNat_add]; omega
  exact { h with
    request := fun _ => ⟨r, _, hr, hc, (State.phaseOk_tx (by exact hs)).mpr ⟨ty, p, rfl, hbuf, hlen, hidx⟩⟩ }

/-- A parser in use may move to any state but OFF that agrees with its registers. -/
theorem State.Inv.setParser {q : Parser} (h : s.Inv) (hs : s.seqState = .rx) (hq : q.wf s.cfg.maxPayload)
    (hoff : q.state ≠ .off) : ({ s with prs := q } : State).Inv :=
  { h with
    parser := hq
    parserUse := by simp [hs, hoff] }

/-- Every step on the request in progress keeps the invariant (42_command_protocol.md R175 to R187). -/
theorem SeqMove.inv (hm : SeqMove s t) (h : s.Inv) : t.Inv := by
  cases hm with
  | wait => exact h
  | transmit b hs hi => exact h.transmit hs hi b
  | parse w hs _ hk ht =>
    obtain ⟨r, ty, p, hr, hc, -⟩ := h.sendsFrame hs
    obtain ⟨hk', -⟩ := holds_iff.mp hr
    have hkind : r.kind = kindExecute := Option.some.inj (hk'.symm.trans hk)
    exact h.startParse ht hr hc (by rw [hkind]; decide)
  | sent hs => exact h.respond (by simp [hs]) _
  | byte b rest q hs hw _ hf =>
    obtain ⟨q', hq', hwf, hst⟩ := feed_wf (b := b) h.parser hw
    obtain rfl := Except.ok.inj (hq'.symm.trans hf)
    have hoff : q'.state ≠ .off := by
      intro e
      simp [e, PrsState.isWait] at hst
    exact (h.setParser hs hwf hoff).ports ..
  | timeout _ hs => exact h.setParser hs ⟨h.parser.1, trivial⟩ (by simp)
  | conclude r => exact h.conclude r
  | matched id conf r =>
    have hset : ({ s with matchId := some id, confidence := some conf, matchValid := true } : State).Inv :=
      { h with matchId := rfl, confidence := rfl }
    exact hset.conclude r
  | counted n r =>
    have hset : ({ s with templateCount := some n, countValid := true } : State).Inv :=
      { h with templateCount := rfl }
    exact hset.conclude r

/-- The FPE's step keeps the invariant. -/
theorem FpeMove.inv (hm : FpeMove s t) (h : s.Inv) : t.Inv := by
  cases hm with
  | waitForRequest => exact h
  | accept l rest r hs => exact State.Inv.accept (h.ports _ rest _ _ _ _ _) hs r
  | goOn _ _ hm => exact hm.inv h

/-- The turn of every agent keeps the invariant (00_scope.md R12). -/
theorem Move.inv (hm : Move s t) (h : s.Inv) : t.Inv := by
  cases hm with
  | fpeAlone _ _ hm => exact hm.inv h
  | fpe _ rest _ hm => exact hm.inv (h.ports ..)
  | heldTick _ _ _ _ hm => exact hm.inv h
  | tick => exact State.Inv.tick (h.ports ..)
  | offer => exact h.ports ..
  | rx => exact h.ports ..
  | txReady => exact h.ports ..
  | rst cfg => exact resetFpe_inv _ cfg

/-- Settles O54: each move that the inversion lemma of the step names keeps the invariant. -/
theorem everyStepKeepsTheInvariant : Obligations.EveryStepKeepsTheInvariant :=
  fun _ _ h hst => (step_move hst).inv h

/-! ### Bytes that arrive, requests that are offered -/

theorem step_rx {bytes : List Byte} {rest : List Turn} (ha : s.agenda = .rx bytes :: rest) :
    step s = arrive bytes { s with agenda := rest } := by
  simp only [step, ha]

theorem step_offer {l : HostLine} {rest : List Turn} (ha : s.agenda = .offer l :: rest) :
    step s = .next (({ s with agenda := rest } : State).offer l) := by
  simp only [step, ha]

theorem arrive_of_decode {bytes : List Byte} {i : Instr} (hi : decode (.wire bytes) = .ok i) (s : State) :
    arrive bytes s = exec i s := by
  simp only [arrive, hi]

/-- Settles O12: a turn that brings bytes lets them arrive, and arriving bytes that decode are run. -/
theorem stepRunsTheArrivingFrame : Obligations.StepRunsTheArrivingFrame :=
  fun _ _ _ _ ha hi => (step_rx ha).trans (arrive_of_decode hi _)

/-- A buffer that decodes is the encoding of the frame it decodes to, with a payload within the bound
(40_frame_codec.md R102, R103). -/
theorem eq_encodeFrame_of_decodeFrame {m : Nat} {buf : List Byte} {fr : Frame} (h : decodeFrame m buf = .ok fr) :
    buf = encodeFrame fr.address fr.ftype fr.payload ∧ fr.payload.length ≤ m := by
  unfold decodeFrame at h
  split at h
  case h_2 => cases h
  rename_i s0 s1 a0 a1 a2 a3 ty lenHi lenLo rest
  split at h; · cases h
  split at h; · cases h
  rename_i hstart
  obtain ⟨rfl, rfl⟩ : s0 = startHi ∧ s1 = startLo := by simpa using hstart
  split at h; · cases h
  split at h; · cases h
  split at h; · cases h
  split at h; · cases h
  split at h
  case h_2 => cases h
  rename_i sumHi sumLo hdrop
  split at h; · cases h
  rename_i hsum
  cases h
  have hlen : (rest.take ((u16 lenHi lenLo).toNat - 2)).length = (u16 lenHi lenLo).toNat - 2 := by
    rw [List.length_take]; omega
  have hwire : wireLength (rest.take ((u16 lenHi lenLo).toNat - 2)) = u16 lenHi lenLo := by
    rw [wireLength, hlen, Nat.sub_add_cancel (by omega), BitVec.ofNat_toNat, BitVec.setWidth_eq]
  have hrest : rest = rest.take ((u16 lenHi lenLo).toNat - 2) ++ [sumHi, sumLo] := by
    rw [← hdrop, List.take_append_drop]
  refine ⟨?_, by simp only [hlen]; omega⟩
  obtain ⟨eh, el⟩ := u16_inj (u16_extract (u16 lenHi lenLo))
  simp only [encodeFrame, frameChecksum, hwire, eh, el, be32_u32, be16_u16, ← not_not.mp hsum]
  simpa using hrest

/-- Bytes that arrive join `RXQ` as they are, a frame or not (R36). -/
theorem arrive_eq_receive (bytes : List Byte) (s : State) : arrive bytes s = .next (s.receive bytes) := by
  cases hi : decode (.wire bytes) with
  | error e => simp only [arrive, hi]
  | ok i =>
    obtain ⟨a, ty, p, hd, he⟩ := exec_wire hi
    rw [arrive_of_decode hi, he, ← (eq_encodeFrame_of_decodeFrame hd).1]

/-- Settles O13: arriving bytes are received as they are, and an offered request is queued. -/
theorem arrivingBytesJoinTheQueue : Obligations.ArrivingBytesJoinTheQueue :=
  fun _ _ => ⟨fun bytes ha => (step_rx ha).trans (arrive_eq_receive bytes _), fun _ ha => step_offer ha⟩

/-! ### No step of the invariant faults -/

/-- While a byte of the frame is still to be sent, `TXBUF` holds it; after the last one the request is of a kind that sends
(42_command_protocol.md R175, R176). -/
theorem State.Inv.txPhase_ok (h : s.Inv) (hs : s.seqState = .tx) : ∃ t, txPhase s = .ok t := by
  obtain ⟨r, ty, p, hr, -, hbuf, hlen, -⟩ := h.sendsFrame hs
  obtain ⟨hk, -, ht, -⟩ := holds_iff.mp hr
  unfold txPhase
  split
  · rename_i hi
    have hb := (readAt_of_take hbuf (hlen ▸ hi)).trans (List.getElem?_eq_getElem (hlen ▸ hi))
    split
    · rw [transmitStep, hb, need_some, ok_bind]; exact ⟨_, rfl⟩
    · exact ⟨_, rfl⟩
  split
  · simp only [endOfTransmit, hk, ht, need_some, ok_bind]
    split
    · exact ⟨_, rfl⟩
    split <;> exact ⟨_, rfl⟩
  · exact ⟨_, rfl⟩

/-- The wait of a parse reads only registers that hold a value (41_stream_assembler.md R132, R143). -/
theorem State.Inv.waitPhase_ok (h : s.Inv) (hs : s.seqState = .rx) (hw : s.prs.state.isWait = true) :
    ∃ t, waitPhase s = .ok t := by
  unfold waitPhase
  split
  · rename_i b rest _
    obtain ⟨q, hq, -⟩ := feed_wf (b := b) h.parser hw
    exact ⟨_, byteStep_eq_ok.mpr ⟨q, hq, rfl⟩⟩
  · obtain ⟨w, ht⟩ := h.prsTimeout_eq_some hs
    rw [timeoutEnabled_of_active (parserActive_iff.mpr ⟨hs, hw⟩) ht]
    exact ⟨_, rfl⟩

/-- An acknowledgement is treated whatever its payload, for `REQ_CMD` holds a value (42_command_protocol.md R180, R181). -/
theorem finishAck_ok {payload : List Byte} {a : Word} {c : BitVec 4} (hc : s.reqCmd = some c) :
    ∃ t, finishAck payload a s = .ok t := by
  unfold finishAck
  split
  · exact ⟨_, rfl⟩
  split
  · exact ⟨_, rfl⟩
  · exact ⟨_, by rw [hc, need_some, ok_bind]⟩

/-- A completed parse is answered for either kind of request: its frame and the request registers hold values
(42_command_protocol.md R179 to R181, R187). -/
theorem State.Inv.finishFrame_ok (h : s.Inv) (hs : s.seqState = .rx) (hd : s.prs.state = .done) :
    ∃ t, finishFrame s = .ok t := by
  obtain ⟨r, -, hr, -, -⟩ := h.collectsFrame hs
  obtain ⟨hk, hc, -⟩ := holds_iff.mp hr
  obtain ⟨⟨a, ty, payload⟩, hf, -⟩ := frame_of_done h.parser hd
  simp only [finishFrame, hk, need_some, ok_bind]
  split
  · obtain ⟨ha, ht, -⟩ := frame_eq_ok.mp hf
    by_cases hty : ty = typeAck
    · subst hty
      rw [finishExecute_ack hf]
      exact finishAck_ok hc
    · exact ⟨_, finishExecute_wrongType ht ha hty⟩
  · exact ⟨_, by rw [hf, ok_bind]⟩

/-- A parse that has ended is answered (42_command_protocol.md R177, R178). -/
theorem State.Inv.finish_ok (h : s.Inv) (hs : s.seqState = .rx) : ∃ t, finish s = .ok t := by
  have hp := h.parser.2
  unfold finish
  cases hst : s.prs.state <;> simp only [Parser.stateOk, hst] at hp ⊢
  case done => exact h.finishFrame_ok hs hst
  case err => obtain he | he | he | he := hp <;> exact ⟨_, by rw [he, need_some, ok_bind]⟩
  all_goals exact ⟨_, rfl⟩

/-- The request in progress always has its next step (42_command_protocol.md R175 to R187). -/
theorem State.Inv.continueRequest_ok (h : s.Inv) : ∃ t, continueRequest s = .ok t := by
  unfold continueRequest
  cases hs : s.seqState <;> simp only
  case idle => exact ⟨_, rfl⟩
  case tx => exact h.txPhase_ok hs
  case rx =>
    unfold rxPhase
    split
    · exact h.waitPhase_ok hs ‹_›
    · exact h.finish_ok hs

/-- The accept step reads no register that can hold no value (42_command_protocol.md R170). -/
theorem acceptLine_ne_fault (hs : s.seqState = .idle) (l : HostLine) (f : Fault) : acceptLine l s ≠ .fault f := by
  unfold acceptLine
  split
  · rename_i i hi
    obtain ⟨r, hr⟩ := exec_hostLine hi
    simp [hr, runRequest_idle hs]
  · cases l <;> simp

/-- In IDLE the FPE's step is the accept step on the offered line (42_command_protocol.md R170). -/
theorem fpeStep_offered {l : HostLine} {rest : List HostLine} (hs : s.seqState = .idle) (hq : s.hostq = l :: rest) :
    fpeStep s = acceptLine l { s with hostq := rest } := by
  simp only [fpeStep, hs, hq]

theorem State.Inv.fpeStep_ne_fault (h : s.Inv) (f : Fault) : fpeStep s ≠ .fault f := by
  by_cases hs : s.seqState = .idle
  · cases hq : s.hostq with
    | nil => simp [fpeStep, hs, hq]
    | cons l rest => rw [fpeStep_offered hs hq]; exact acceptLine_ne_fault (by exact hs) l f
  · obtain ⟨t, ht⟩ := h.continueRequest_ok
    simp [fpeStep_busy hs, ht]

/-- Whether a tick must wait is decided in every state of the invariant (41_stream_assembler.md R144). -/
theorem State.Inv.tickEnabled_ok (h : s.Inv) : ∃ b, tickEnabled s = .ok b := by
  cases ha : s.parserActive with
  | false => exact ⟨_, tickEnabled_of_inactive ha⟩
  | true =>
    obtain ⟨w, ht⟩ := h.prsTimeout_eq_some (parserActive_iff.mp ha).1
    exact ⟨_, tickEnabled_of_active ha ht⟩

theorem State.Inv.tickTurn_ne_fault (h : s.Inv) (rest : List Turn) (f : Fault) : tickTurn rest s ≠ .fault f := by
  obtain ⟨b, hb⟩ := h.tickEnabled_ok
  unfold tickTurn
  cases b <;> simp only [hb]
  · exact h.fpeStep_ne_fault f
  · simp

/-- Settles O55: by the turn; only the FPE's step and the clock's turn read a register that can hold no value. -/
theorem noStepOfTheInvariantFaults : Obligations.NoStepOfTheInvariantFaults := by
  intro s f h
  unfold step
  split
  · exact h.fpeStep_ne_fault f
  · exact State.Inv.fpeStep_ne_fault (h.ports ..) f
  · simp
  · simp [arrive_eq_receive]
  · simp
  · exact h.tickTurn_ne_fault _ f
  · simp

/-! ### What only reset writes -/

/-- `t` has the parameters of `s`, its `ADDRESS` and its `PASSWORD`. -/
def State.SameIdentity (s t : State) : Prop := t.address = s.address ∧ t.password = s.password ∧ t.cfg = s.cfg

theorem SeqMove.sameIdentity (hm : SeqMove s t) : s.SameIdentity t := by
  cases hm <;> exact ⟨rfl, rfl, rfl⟩

theorem accept_sameIdentity (r : Request) (s : State) : s.SameIdentity (accept r s) := by
  obtain ⟨_, -, he⟩ | ⟨_, _, -, he⟩ | ⟨-, he⟩ := accept_cases r s <;> rw [he] <;> exact ⟨rfl, rfl, rfl⟩

theorem FpeMove.sameIdentity (hm : FpeMove s t) : s.SameIdentity t := by
  cases hm with
  | waitForRequest => exact ⟨rfl, rfl, rfl⟩
  | accept _ rest r => exact accept_sameIdentity r { s with hostq := rest }
  | goOn _ _ hm => exact hm.sameIdentity

theorem tick_sameIdentity (s : State) : s.SameIdentity s.tick := by
  unfold State.tick
  split <;> exact ⟨rfl, rfl, rfl⟩

/-- Settles O56: of the moves that the inversion lemma of the step names only reset writes them. -/
theorem onlyResetWritesAddressAndPassword : Obligations.OnlyResetWritesAddressAndPassword := by
  intro s t hst hrst
  cases step_move hst with
  | fpeAlone _ _ hm => exact hm.sameIdentity
  | fpe _ rest _ hm => exact hm.sameIdentity
  | heldTick _ _ _ _ hm => exact hm.sameIdentity
  | tick rest => exact tick_sameIdentity { s with agenda := rest }
  | offer => exact ⟨rfl, rfl, rfl⟩
  | rx => exact ⟨rfl, rfl, rfl⟩
  | txReady => exact ⟨rfl, rfl, rfl⟩
  | rst cfg rest ha => exact absurd ha (hrst cfg rest)

/-! ### The status outputs -/

theorem State.reqReady_iff : s.reqReady = true ↔ s.seqState = .idle := by simp [State.reqReady]

/-- Settles O52: output by output; the session results by their validity bit. -/
theorem statusOutputsFollowTheState : Obligations.StatusOutputsFollowTheState := by
  intro s
  refine ⟨State.reqReady_iff, rfl, rfl, rfl, rfl, rfl, fun hv => ?_, fun hv => ?_, fun hv => ?_, fun hv => ?_⟩ <;>
    simp [State.statusOutputs, hv]

end Sys2Proof.Machine
end

section
/-! SUPPORT. The two byte streams of 20_memory.md: what each move does to the bytes sent and to `RXQ`. -/

namespace Sys2Proof.Machine

variable {s t : State}

/-- From `s` to `t` at most one byte is sent, at the end of the bytes sent and in TX, and `RXQ` grows at its end or gives its
first byte to a parser that waits for one (20_memory.md R56, R59). -/
def State.StreamsInOrder (s t : State) : Prop :=
  (t.txStream = s.txStream ∨ ∃ b, t.txStream = s.txStream ++ [b] ∧ s.seqState = .tx)
    ∧ ((∃ arrived, t.rxq = s.rxq ++ arrived) ∨ ∃ b, s.rxq = b :: t.rxq ∧ s.seqState = .rx ∧ s.prs.state.isWait = true)

theorem streamsInOrder_of_eq (htx : t.txStream = s.txStream) (hrx : t.rxq = s.rxq) : s.StreamsInOrder t :=
  ⟨.inl htx, .inl ⟨[], by simp [hrx]⟩⟩

/-- Of the steps on the request in progress only the transmit step sends a byte and only the byte step takes one
(42_command_protocol.md R175, 41_stream_assembler.md R132). -/
theorem SeqMove.streamsInOrder (hm : SeqMove s t) : s.StreamsInOrder t := by
  cases hm with
  | transmit b hs => exact ⟨.inr ⟨b, rfl, hs⟩, .inl ⟨[], by simp⟩⟩
  | byte b rest q hs hw hr => exact ⟨.inl rfl, .inr ⟨b, hr, hs, hw⟩⟩
  | _ => exact streamsInOrder_of_eq rfl rfl

/-- The accept step leaves both streams: the frame it starts is sent by later steps (42_command_protocol.md R174). -/
theorem accept_streamsInOrder (r : Request) (s : State) : s.StreamsInOrder (accept r s) := by
  obtain ⟨_, -, he⟩ | ⟨_, _, -, he⟩ | ⟨-, he⟩ := accept_cases r s <;> rw [he] <;> exact streamsInOrder_of_eq rfl rfl

theorem FpeMove.streamsInOrder (hm : FpeMove s t) : s.StreamsInOrder t := by
  cases hm with
  | waitForRequest => exact streamsInOrder_of_eq rfl rfl
  | accept _ rest r => exact accept_streamsInOrder r { s with hostq := rest }
  | goOn _ _ hm => exact hm.streamsInOrder

theorem tick_streamsInOrder (s : State) : s.StreamsInOrder s.tick := by
  unfold State.tick
  split <;> exact streamsInOrder_of_eq rfl rfl

/-- Of the other agents only the peer moves a stream: its bytes join `RXQ` at the end (10_state.md R36). -/
theorem Move.streamsInOrder (hm : Move s t) : s.StreamsInOrder t := by
  cases hm with
  | fpeAlone _ _ hm => exact hm.streamsInOrder
  | fpe _ rest _ hm => exact hm.streamsInOrder
  | heldTick _ _ _ _ hm => exact hm.streamsInOrder
  | tick rest => exact tick_streamsInOrder { s with agenda := rest }
  | rx _ arrived => exact ⟨.inl rfl, .inl ⟨arrived, rfl⟩⟩
  | offer => exact streamsInOrder_of_eq rfl rfl
  | txReady => exact streamsInOrder_of_eq rfl rfl
  | rst => exact streamsInOrder_of_eq rfl rfl

/-- Settles O58: each move that the inversion lemma of the step names keeps both streams in order. -/
theorem streamsMoveOneByteInOrder : Obligations.StreamsMoveOneByteInOrder :=
  fun _ _ hst => (step_move hst).streamsInOrder

end Sys2Proof.Machine
end

section
/-! SUPPORT. The encoding (30_encoding.md): the header's fields, the bytes of a frame, and that the decoder inverts the encoder
format by format. -/

namespace Sys2Proof

/-! ### The header of a request record -/

theorem Request.reserved_eq_zero (r : Request) : r.reserved = 0 ↔ r.hdr.toNat / 64 = 0 := by
  have := r.hdr.isLt
  simp only [Request.reserved, ← BitVec.toNat_inj, BitVec.extractLsb'_toNat, Nat.shiftRight_eq_div_pow,
    BitVec.ofNat_eq_ofNat, BitVec.toNat_ofNat]
  omega

theorem Request.kind_eq_ofNat (r : Request) {n : Nat} (hn : n < 4) : r.kind = BitVec.ofNat 2 n ↔ r.hdr.toNat % 4 = n := by
  rw [← BitVec.toNat_inj, BitVec.toNat_ofNat, Nat.mod_eq_of_lt hn]
  simp [Request.kind]

theorem Request.kind_eq_execute (r : Request) : r.kind = kindExecute ↔ r.hdr.toNat % 4 = 0 := r.kind_eq_ofNat (by decide)

theorem Request.kind_eq_sendFrame (r : Request) : r.kind = kindSendFrame ↔ r.hdr.toNat % 4 = 1 := r.kind_eq_ofNat (by decide)

theorem Request.kind_eq_receiveFrame (r : Request) : r.kind = kindReceiveFrame ↔ r.hdr.toNat % 4 = 2 :=
  r.kind_eq_ofNat (by decide)

theorem Request.selector_eq_ofNat (r : Request) : r.selector = BitVec.ofNat 4 (r.hdr.toNat / 4) := by
  apply BitVec.eq_of_toNat_eq
  simp [Request.selector, BitVec.extractLsb'_toNat, Nat.shiftRight_eq_div_pow]

/-- Settles O9: the decoder's tests of the two bit fields, read as tests of the header's number. -/
theorem headerFieldsSelectTheRequest : Obligations.HeaderFieldsSelectTheRequest := by
  intro hdr f
  simp only [decode, decodeRecord, ne_eq, Request.reserved_eq_zero, Request.kind_eq_execute, Request.kind_eq_sendFrame,
    Request.kind_eq_receiveFrame, Request.selector_eq_ofNat]

/-! ### The bytes of a frame -/

theorem extract_hi_eq_ofNat (v : Half) : v.extractLsb' 8 8 = BitVec.ofNat 8 (v.toNat / 256) := by
  rw [← extract_hi_toNat, BitVec.ofNat_toNat, BitVec.setWidth_eq]

theorem extract_lo_eq_ofNat (v : Half) : v.extractLsb' 0 8 = BitVec.ofNat 8 (v.toNat % 256) := by
  rw [← extract_lo_toNat, BitVec.ofNat_toNat, BitVec.setWidth_eq]

/-- The checksum is the sum of the two length bytes, the type and the payload, mod 65536 (30_encoding.md R70). -/
theorem frameChecksum_toNat (ty : Byte) {p : List Byte} (hp : p.length ≤ wirePayloadMax) :
    (frameChecksum ty p).toNat = ((p.length + 2) / 256 + (p.length + 2) % 256 + ty.toNat + sum8 p) % 65536 := by
  rw [frameChecksum, cs16, extract_hi_toNat, extract_lo_toNat, wireLength_toNat hp, BitVec.toNat_ofNat]

/-- Settles O2: the frame byte by byte, each 16-bit field by its number. -/
theorem frameBytesStandAtTheirOffsets : Obligations.FrameBytesStandAtTheirOffsets := by
  intro a ty p sum hp hsum
  have hlen : (wireLength p).toNat = p.length + 2 := wireLength_toNat hp
  have hcs : (frameChecksum ty p).toNat = sum % 65536 := by rw [frameChecksum_toNat ty hp, hsum, sum8]
  have htail : (encodeFrame a ty p).drop 9 = p ++ be16 (frameChecksum ty p) := by rw [encodeFrame_eq]; rfl
  refine ⟨encodeFrame_length a ty p, ?_, ?_, ?_, ?_⟩
  · rw [encodeFrame_eq]; rfl
  · rw [← hlen, ← extract_hi_eq_ofNat, ← extract_lo_eq_ofNat, encodeFrame_eq]; rfl
  · rw [htail, List.take_left]
  · rw [← List.drop_drop, htail, List.drop_left, ← hcs, ← extract_hi_eq_ofNat, ← extract_lo_eq_ofNat, be16]

/-! ### Decoding inverts encoding -/

/-- The round trip of the codec (40_frame_codec.md R105). -/
theorem decodeFrame_encodeFrame {m : Nat} (a : Word) (ty : Byte) {p : List Byte} (hp : p.length ≤ m)
    (hm : m ≤ wirePayloadMax) : decodeFrame m (encodeFrame a ty p) = .ok ⟨a, ty, p⟩ := by
  have hlen : (wireLength p).toNat = p.length + 2 := wireLength_toNat (hp.trans hm)
  have hsize : 9 + (p ++ be16 (frameChecksum ty p)).length = p.length + 2 + 9 := by simp; omega
  rw [encodeFrame_eq]
  simp only [decodeFrame, u16_extract, u32_extract, hlen, hsize, Nat.add_sub_cancel, List.take_left, List.drop_left]
  rw [if_neg (by omega), if_neg (by simp), if_neg (by omega), if_neg (by omega), if_neg (by omega), if_neg (by omega)]
  simp [be16, frameChecksum]

theorem decode_encodeFrame (a : Word) (ty : Byte) {p : List Byte} (hp : p.length ≤ wirePayloadMax) :
    decode (.wire (encodeFrame a ty p)) = Frame.instr ⟨a, ty, p⟩ := by
  simp only [decode, decodeWire, decodeFrame_encodeFrame a ty hp le_rfl]

theorem decode_encodeCall (c : Command) (f : Fields) : decode (encodeCall c f) = .ok (c.instr f) := by
  simp only [encodeCall, decode, decodeCall, ofTableOpcode_tableOpcode]

/-- A record that the encoder writes is decoded by its kind alone (30_encoding.md R76). -/
theorem decode_encodeRecord (k : BitVec 2) (c : BitVec 4) (f : Fields) :
    decode (encodeRecord k c f)
      = if k = kindExecute then .ok (.execute c f)
        else if k = kindSendFrame then .ok (.sendFrame c f)
        else if k = kindReceiveFrame then .ok (.receiveFrame c f)
        else .error .reservedKind := by
  simp only [encodeRecord, decode, decodeRecord, headerOf_reserved, headerOf_kind, headerOf_selector, ne_eq,
    not_true_eq_false, if_false]

/-- Settles O8: by the instruction's format, each with the lemma that inverts it. -/
theorem decodeInvertsEncode : Obligations.DecodeInvertsEncode := by
  intro i hi
  cases i
  case frameCommand a p => exact decode_encodeFrame a typeCommand (of_decide_eq_true hi)
  case frameData a p => exact decode_encodeFrame a typeData (of_decide_eq_true hi)
  case frameAck a p => exact decode_encodeFrame a typeAck (of_decide_eq_true hi)
  case frameEndOfData a p => exact decode_encodeFrame a typeEndOfData (of_decide_eq_true hi)
  case execute c f => exact decode_encodeRecord kindExecute c f
  case sendFrame c f => exact decode_encodeRecord kindSendFrame c f
  case receiveFrame c f => exact decode_encodeRecord kindReceiveFrame c f
  all_goals exact decode_encodeCall _ _

/-- Settles O7: the decoder evaluated on the written-out words. -/
theorem writtenOutWordsDecode : Obligations.WrittenOutWordsDecode := by
  unfold Obligations.WrittenOutWordsDecode
  decide

end Sys2Proof

namespace Sys2Proof.Machine

/-- Settles O25: the meaning of each wire frame is that its bytes are received (10_state.md R36). -/
theorem wireFramesJoinTheQueue : Obligations.WireFramesJoinTheQueue :=
  fun _ _ _ => ⟨rfl, rfl, rfl, rfl⟩

end Sys2Proof.Machine
end

section
/-! SUPPORT. The Frame Codec (40_frame_codec.md): the decoder's answer branch by branch, what a changed byte or a reordered
payload does to it, and its agreement with the streaming parser. -/

namespace Sys2Proof

variable {m : Nat} {buf rest : List Byte} {fr : Frame} {s0 s1 a0 a1 a2 a3 ty lh ll : Byte}

/-! ### The checksum -/

theorem cs16_toNat (lh ll ty : Byte) (p : List Byte) :
    (cs16 lh ll ty p).toNat = (lh.toNat + ll.toNat + ty.toNat + sum8 p) % 65536 := BitVec.toNat_ofNat ..

theorem sum8_le (p : List Byte) : sum8 p ≤ 255 * p.length := by
  induction p with
  | nil => exact le_rfl
  | cons b p ih =>
    have := b.isLt
    rw [sum8_cons, List.length_cons]; omega

theorem sum8_perm {p q : List Byte} (h : p.Perm q) : sum8 p = sum8 q := (h.map BitVec.toNat).sum_eq

/-- Writing another byte moves the sum by the difference of the two. -/
theorem sum8_set {p : List Byte} {i : Nat} {x : Byte} (hx : p[i]? = some x) (y : Byte) :
    sum8 (p.set i y) + x.toNat = sum8 p + y.toNat := by
  induction p generalizing i with
  | nil => simp at hx
  | cons b p ih =>
    cases i with
    | zero =>
      obtain rfl : b = x := by simpa using hx
      rw [List.set_cons_zero, sum8_cons, sum8_cons]; omega
    | succ i =>
      have := ih (by simpa using hx)
      rw [List.set_cons_succ, sum8_cons, sum8_cons]; omega

/-- Settles O1: up to 255 payload bytes the sum is at most 65282 and does not wrap. -/
theorem checksumIsTheSumTruncated : Obligations.ChecksumIsTheSumTruncated := by
  intro lh ll ty p
  refine ⟨cs16_toNat lh ll ty p, fun hp => ?_⟩
  have hsum := sum8_le p
  have := ty.isLt
  rw [frameChecksum_toNat ty (hp.trans (by decide)), ← sum8, Nat.mod_eq_of_lt (by omega)]

/-! ### The round trip -/

/-- Settles O3: the round trip of the codec. -/
theorem decodeOfAnEncodedFrame : Obligations.DecodeOfAnEncodedFrame :=
  fun _ a ty _ hm hp => decodeFrame_encodeFrame a ty hp hm

/-- Settles O4: the converse of the round trip. -/
theorem decodedBufferIsTheEncoding : Obligations.DecodedBufferIsTheEncoding :=
  fun _ _ _ h => Machine.eq_encodeFrame_of_decodeFrame h

/-! ### The decoder's answer, check by check -/

/-- The start marker is checked before the length (40_frame_codec.md R103). -/
theorem decodeFrame_badStart (hr : 2 ≤ rest.length) (h : s0 ≠ startHi ∨ s1 ≠ startLo) :
    decodeFrame m (s0 :: s1 :: a0 :: a1 :: a2 :: a3 :: ty :: lh :: ll :: rest) = .error .badStart := by
  simp only [decodeFrame]
  rw [if_neg (by omega), if_pos h]

/-- The four length checks behind a correct marker, in the rule's order (R103). -/
theorem decodeFrame_badLength (hr : 2 ≤ rest.length) (h : (u16 lh ll).toNat < 2 ∨ m + 2 < (u16 lh ll).toNat
      ∨ rest.length ≠ (u16 lh ll).toNat) :
    decodeFrame m (startHi :: startLo :: a0 :: a1 :: a2 :: a3 :: ty :: lh :: ll :: rest)
      = .error (if (u16 lh ll).toNat < 2 then .lenShort else if m + 2 < (u16 lh ll).toNat then .lenLong
          else if rest.length < (u16 lh ll).toNat then .lenShort else .lenLong) := by
  simp only [decodeFrame]
  rw [if_neg (by omega), if_neg (by simp)]
  by_cases h1 : (u16 lh ll).toNat < 2
  · rw [if_pos h1, if_pos h1]
  rw [if_neg h1, if_neg h1]
  by_cases h2 : m + 2 < (u16 lh ll).toNat
  · rw [if_pos h2, if_pos (by omega)]
  rw [if_neg h2, if_neg (by omega)]
  by_cases h3 : rest.length < (u16 lh ll).toNat
  · rw [if_pos h3, if_pos (by omega)]
  · rw [if_neg h3, if_neg (by omega), if_pos (by omega)]

/-- In a buffer of its stated length only the checksum can be wrong (R103). -/
theorem decodeFrame_of_length {p : List Byte} {sh sl : Byte} (hp : (u16 lh ll).toNat = p.length + 2) (hm : p.length ≤ m) :
    decodeFrame m (startHi :: startLo :: a0 :: a1 :: a2 :: a3 :: ty :: lh :: ll :: (p ++ [sh, sl]))
      = if u16 sh sl = cs16 lh ll ty p then .ok ⟨u32 a0 a1 a2 a3, ty, p⟩ else .error .badChecksum := by
  have hlen : (p ++ [sh, sl]).length = p.length + 2 := by simp
  simp only [decodeFrame, hlen, hp, Nat.add_sub_cancel, List.take_left, List.drop_left]
  rw [if_neg (by omega), if_neg (by simp), if_neg (by omega), if_neg (by omega), if_neg (by omega), if_neg (by omega)]
  simp only [ne_eq, ite_not]

/-! ### One flipped bit -/

theorem be16_inj {v w : Half} (e : be16 v = be16 w) : v = w := by
  obtain ⟨hh, hl⟩ : v.extractLsb' 8 8 = w.extractLsb' 8 8 ∧ v.extractLsb' 0 8 = w.extractLsb' 0 8 := by
    simpa [be16] using e
  rw [← u16_extract v, hh, hl, u16_extract]

/-- Behind the payload stand the two checksum bytes (30_encoding.md R70). -/
theorem encodeFrame_drop_checksum (a : Word) (ty : Byte) (p : List Byte) :
    (encodeFrame a ty p).drop (9 + p.length) = be16 (frameChecksum ty p) := by
  rw [encodeFrame_eq, ← List.drop_drop]; exact List.drop_left ..

/-- The checksum of an encoded frame is over its bytes from the type to the end of the payload (R101). -/
theorem encodeFrame_drop_sum (a : Word) (ty : Byte) (p : List Byte) :
    (encodeFrame a ty p).drop (9 + p.length)
      = be16 (BitVec.ofNat 16 (sum8 (((encodeFrame a ty p).drop 6).take (3 + p.length)))) := by
  have hcov : ((encodeFrame a ty p).drop 6).take (3 + p.length)
      = ty :: (wireLength p).extractLsb' 8 8 :: (wireLength p).extractLsb' 0 8 :: p := by
    rw [encodeFrame_eq, Nat.add_comm 3]; simp
  have hsum : frameChecksum ty p = BitVec.ofNat 16 (sum8 (((encodeFrame a ty p).drop 6).take (3 + p.length))) := by
    rw [hcov, frameChecksum, cs16]
    simp only [sum8_cons]
    congr 1; omega
  rw [← hsum, encodeFrame_drop_checksum]

/-- A buffer that decodes ends with the sum of its bytes from offset 6 on (R101, R103). -/
theorem drop_sum_of_decodeFrame (h : decodeFrame m buf = .ok fr) :
    buf.drop (buf.length - 2) = be16 (BitVec.ofNat 16 (sum8 ((buf.drop 6).take (buf.length - 8)))) := by
  obtain ⟨rfl, -⟩ := Machine.eq_encodeFrame_of_decodeFrame h
  rw [encodeFrame_length, show ∀ n, 11 + n - 2 = 9 + n by omega, show ∀ n, 11 + n - 8 = 3 + n by omega]
  exact encodeFrame_drop_sum ..

/-- One other byte between the address and the checksum moves the sum by less than 65536, so that the frame is refused
(R106). -/
theorem decodeFrame_set_error {i : Nat} {x y : Byte} (h : decodeFrame m buf = .ok fr) (hi : 6 ≤ i) (hi' : i < buf.length - 2)
    (hx : buf[i]? = some x) (hy : y ≠ x) : ∃ r, decodeFrame m (buf.set i y) = .error r := by
  cases h' : decodeFrame m (buf.set i y) with
  | error r => exact ⟨r, rfl⟩
  | ok fr' =>
    have e := drop_sum_of_decodeFrame h'
    have hcov : ((buf.set i y).drop 6).take (buf.length - 8) = ((buf.drop 6).take (buf.length - 8)).set (i - 6) y := by
      rw [List.drop_set, if_neg (by omega), List.take_set]
    rw [List.length_set, List.drop_set_of_lt hi', drop_sum_of_decodeFrame h, hcov] at e
    have hmod := congrArg BitVec.toNat (be16_inj e)
    have hset := sum8_set (p := (buf.drop 6).take (buf.length - 8)) (i := i - 6) (x := x)
      (by rw [List.getElem?_take, if_pos (by omega), List.getElem?_drop, Nat.add_sub_cancel' hi, hx]) y
    rw [BitVec.toNat_ofNat, BitVec.toNat_ofNat] at hmod
    have := x.isLt; have := y.isLt
    exact absurd (BitVec.eq_of_toNat_eq (by omega)) hy

/-- A flipped bit gives another byte. -/
theorem flip_ne (x : Byte) {k : Nat} (hk : k < 8) : x ^^^ (1#8 <<< k) ≠ x := by
  have hbit : ∀ k < 8, 1#8 <<< k ≠ 0#8 := by decide
  exact fun e => hbit k hk (by simpa using e)

/-- The bit `k` of byte `j` of a big-endian word is its bit `8 * (3 - j) + k`. -/
theorem be32_bit {j k : Nat} (hj : j < 4) (hk : k < 8) :
    be32 (1#32 <<< (8 * (3 - j) + k)) = [(0 : Byte), 0, 0, 0].set j (1#8 <<< k) := by
  have : ∀ j < 4, ∀ k < 8, be32 (1#32 <<< (8 * (3 - j) + k)) = [(0 : Byte), 0, 0, 0].set j (1#8 <<< k) := by decide
  exact this j hj k hk

theorem be32_xor (v w : Word) : be32 (v ^^^ w) = List.zipWith (· ^^^ ·) (be32 v) (be32 w) := by
  simp [be32, BitVec.extractLsb'_xor]

/-- Flipping a bit of one address byte flips the bit of the address that stands there. -/
theorem be32_set_flip {a : Word} {j k : Nat} {x : Byte} (hj : j < 4) (hk : k < 8) (hx : (be32 a)[j]? = some x) :
    (be32 a).set j (x ^^^ (1#8 <<< k)) = be32 (a ^^^ (1#32 <<< (8 * (3 - j) + k))) := by
  rw [be32_xor, be32_bit hj hk]
  obtain rfl | rfl | rfl | rfl : j = 0 ∨ j = 1 ∨ j = 2 ∨ j = 3 := by omega
  all_goals
    obtain rfl := Option.some.inj hx
    simp [be32]

theorem encodeFrame_take_address (a : Word) (ty : Byte) (p : List Byte) : ((encodeFrame a ty p).drop 2).take 4 = be32 a := by
  rw [encodeFrame_eq]; rfl

/-- An address byte replaced in a frame is the frame of the address with that byte (R101: the checksum leaves it out). -/
theorem encodeFrame_set_address {a a' : Word} {j : Nat} {y : Byte} (hj : j < 4) (h : (be32 a).set j y = be32 a')
    (ty : Byte) (p : List Byte) : (encodeFrame a ty p).set (2 + j) y = encodeFrame a' ty p := by
  simp only [encodeFrame, List.append_assoc, ← h]
  rw [List.set_append_right _ _ (by simp), List.set_append_left _ _ (by simpa using hj)]
  simp

/-- A byte written behind the payload is a byte of the checksum (30_encoding.md R70). -/
theorem encodeFrame_set_checksum {a : Word} {p : List Byte} {j : Nat} {y : Byte} :
    (encodeFrame a ty p).set (9 + p.length + j) y
      = startHi :: startLo :: a.extractLsb' 24 8 :: a.extractLsb' 16 8 :: a.extractLsb' 8 8 :: a.extractLsb' 0 8 :: ty
          :: (wireLength p).extractLsb' 8 8 :: (wireLength p).extractLsb' 0 8
          :: (p ++ (be16 (frameChecksum ty p)).set j y) := by
  rw [encodeFrame_eq, show 9 + p.length + j = p.length + j + 9 by omega]
  simp

/-- A checksum with another byte in one place is another checksum. -/
theorem be16_set_ne {v : Half} {j : Nat} {x y : Byte} (hx : (be16 v)[j]? = some x) (hy : y ≠ x) :
    ∃ w, (be16 v).set j y = be16 w ∧ w ≠ v := by
  match j with
  | 0 =>
    obtain rfl := Option.some.inj hx
    refine ⟨u16 y (v.extractLsb' 0 8), by rw [be16_u16]; rfl, fun e => hy ?_⟩
    exact (u16_inj (e.trans (u16_extract v).symm)).1
  | 1 =>
    obtain rfl := Option.some.inj hx
    refine ⟨u16 (v.extractLsb' 8 8) y, by rw [be16_u16]; rfl, fun e => hy ?_⟩
    exact (u16_inj (e.trans (u16_extract v).symm)).2

/-- Settles O5: by the part of the frame in which the bit stands. -/
theorem oneFlippedBitIsDetected : Obligations.OneFlippedBitIsDetected := by
  intro m a ty p i k x hm hp hk hx
  have hdec := decodeFrame_encodeFrame a ty hp hm
  have hflip := flip_ne x hk
  refine ⟨fun h6 hi => ?covered, fun hi => ?marker, fun hi => ?checksum, fun h2 hi => ?address⟩
  case covered => exact decodeFrame_set_error hdec h6 (by rw [encodeFrame_length]; omega) hx hflip
  case marker =>
    rw [encodeFrame_eq] at hx ⊢
    obtain rfl | rfl : i = 0 ∨ i = 1 := by omega
    · obtain rfl := Option.some.inj hx
      exact decodeFrame_badStart (by simp) (.inl hflip)
    · obtain rfl := Option.some.inj hx
      exact decodeFrame_badStart (by simp) (.inr hflip)
  case checksum =>
    obtain ⟨j, rfl⟩ := Nat.exists_eq_add_of_le hi
    have hx' : (be16 (frameChecksum ty p))[j]? = some x := by
      rw [← encodeFrame_drop_checksum a, List.getElem?_drop, hx]
    obtain ⟨w, hw, hne⟩ := be16_set_ne hx' hflip
    rw [encodeFrame_set_checksum, hw]
    refine (decodeFrame_of_length (by rw [u16_extract, wireLength_toNat (hp.trans hm)]) hp).trans (if_neg ?_)
    rwa [u16_extract]
  case address =>
    obtain ⟨j, rfl⟩ := Nat.exists_eq_add_of_le h2
    have hj : j < 4 := by omega
    have hx' : (be32 a)[j]? = some x := by
      rw [← encodeFrame_take_address a ty p, List.getElem?_take, if_pos hj, List.getElem?_drop, hx]
    rw [encodeFrame_set_address hj (be32_set_flip hj hk hx'), show 5 - (2 + j) = 3 - j by omega]
    exact decodeFrame_encodeFrame _ ty hp hm

/-! ### A reordered payload -/

theorem frameChecksum_perm {p q : List Byte} (ty : Byte) (h : p.Perm q) : frameChecksum ty p = frameChecksum ty q := by
  rw [frameChecksum, frameChecksum, wireLength, wireLength, cs16, cs16, h.length_eq, sum8_perm h]

/-- Settles O6: the length and the sum, and so the bytes around the payload, are those of the reordered frame. -/
theorem reorderingIsNotDetected : Obligations.ReorderingIsNotDetected := by
  intro m a a' ty p q hm hp h
  have hmid : ((encodeFrame a ty p).drop 6).take 3 = [ty] ++ be16 (wireLength q) := by
    rw [encodeFrame_eq, wireLength, wireLength, h.length_eq]; rfl
  have hsum : (encodeFrame a ty p).drop (9 + p.length) = be16 (frameChecksum ty q) := by
    rw [encodeFrame_drop_checksum, frameChecksum_perm ty h]
  have he : [0xEF, 0x01] ++ be32 a' ++ ((encodeFrame a ty p).drop 6).take 3 ++ q ++ (encodeFrame a ty p).drop (9 + p.length)
      = encodeFrame a' ty q := by
    rw [hmid, hsum]; simp [encodeFrame, startHi, startLo]
  rw [he]
  exact decodeFrame_encodeFrame a' ty (h.length_eq ▸ hp) hm

end Sys2Proof

namespace Sys2Proof.Machine

variable {m : Nat} {lh ll : Byte}

/-! ### The decoder and the parser -/

/-- A parse that reads everything still waits before its last bytes. -/
theorem feedAll_prefix {p q : Parser} {xs ys : List Byte} (h : feedAll m p (xs ++ ys) = .ok (q, [])) (hy : ys ≠ []) :
    ∃ r, feedAll m p xs = .ok (r, []) ∧ r.state.isWait = true := by
  induction xs generalizing p with
  | nil =>
    obtain ⟨y, ys, rfl⟩ := List.exists_cons_of_ne_nil hy
    refine ⟨p, rfl, ?_⟩
    by_contra hw
    rw [feedAll_stop (by simpa using hw)] at h
    simp at h
  | cons x xs ih =>
    simp only [List.cons_append, feedAll] at h ⊢
    by_cases hw : p.state.isWait = true
    · simp only [hw, if_true] at h ⊢
      cases hf : feed m p x with
      | error f => simp [hf] at h
      | ok r => simp only [hf] at h ⊢; exact ih h
    · simp [hw] at h

/-- A byte behind `0xEF` that is not `0x01` ends the parse; the rest stays unread (41_stream_assembler.md R134, R145). -/
theorem feedAll_badStart {s1 : Byte} (h : s1 ≠ 0x01) (xs : List Byte) :
    feedAll m (startedParser m) ([0xEF, s1] ++ xs) = .ok ((startedParser m).fail .badStart, xs) := by
  have h2 : feedAll m (startedParser m) [0xEF, s1] = .ok ((startedParser m).fail .badStart, []) := by
    have : ¬ s1 = startLo := h
    simp [feedAll, startedParser, PrsState.isWait, feed, feedWaitStartHi, feedWaitStartLo, startHi, this, Parser.fail]
  exact feedAll_ended h2 rfl

/-- As many bytes behind a legal header as it states end the parse, and a parse that does not complete ends with a checksum
error, as the decoder does (R141; 40_frame_codec.md R107). -/
theorem feedAll_of_length (a0 a1 a2 a3 ty : Byte) {tail : List Byte} (h2 : 2 ≤ (u16 lh ll).toNat)
    (hm : (u16 lh ll).toNat ≤ m + 2) (hl : tail.length = (u16 lh ll).toNat) :
    ∃ q, feedAll m (startedParser m) ([0xEF, 0x01, a0, a1, a2, a3, ty, lh, ll] ++ tail) = .ok (q, [])
      ∧ q.state.isTerminal = true
      ∧ (decodeFrame m ([0xEF, 0x01, a0, a1, a2, a3, ty, lh, ll] ++ tail) = .error .badChecksum →
          q.state = .err ∧ q.err = some .badChecksum) := by
  obtain ⟨p, sh, sl, rfl⟩ : ∃ p sh sl, tail = p ++ [sh, sl] := by
    obtain ⟨sh, sl, h⟩ := List.length_eq_two.mp (show (tail.drop (tail.length - 2)).length = 2 by simp; omega)
    exact ⟨_, sh, sl, by rw [← h, List.take_append_drop]⟩
  have hp : (u16 lh ll).toNat = p.length + 2 := by simpa using hl.symm
  have hpm : p.length ≤ m := by omega
  obtain ⟨q, hq, hdone, herr⟩ :=
    feedAll_frame (a0 := a0) (a1 := a1) (a2 := a2) (a3 := a3) (ty := ty) (sh := sh) (sl := sl) hp hpm
  have hdec : decodeFrame m ([0xEF, 0x01, a0, a1, a2, a3, ty, lh, ll] ++ (p ++ [sh, sl])) = _ := decodeFrame_of_length hp hpm
  refine ⟨q, by rw [← List.append_assoc]; exact hq, ?_⟩
  rw [hdec]
  by_cases hs : u16 sh sl = cs16 lh ll ty p
  · obtain ⟨hst, -⟩ := hdone hs
    exact ⟨by rw [hst]; rfl, by simp [hs]⟩
  · exact ⟨by rw [(herr hs).1]; rfl, fun _ => herr hs⟩

/-- With bytes missing the parser waits: the buffer is the beginning of one of its stated length. -/
theorem feedAll_of_short (a0 a1 a2 a3 ty : Byte) {tail : List Byte} (h2 : 2 ≤ (u16 lh ll).toNat)
    (hm : (u16 lh ll).toNat ≤ m + 2) (hl : tail.length < (u16 lh ll).toNat) :
    ∃ q, feedAll m (startedParser m) ([0xEF, 0x01, a0, a1, a2, a3, ty, lh, ll] ++ tail) = .ok (q, [])
      ∧ q.state.isWait = true := by
  have hpad : (tail ++ List.replicate ((u16 lh ll).toNat - tail.length) 0).length = (u16 lh ll).toNat := by simp; omega
  obtain ⟨q, hq, -⟩ := feedAll_of_length a0 a1 a2 a3 ty h2 hm hpad
  rw [← List.append_assoc] at hq
  exact feedAll_prefix hq (by simp; omega)

theorem isWait_of_isTerminal {st : PrsState} (h : st.isTerminal = true) : st.isWait = false := by
  cases st
  case done | err | timeout => rfl
  all_goals cases h

/-- Extra bytes stay unread: the buffer begins with one of its stated length, which ends the parse (R145). -/
theorem feedAll_of_long (a0 a1 a2 a3 ty : Byte) {tail : List Byte} (h2 : 2 ≤ (u16 lh ll).toNat)
    (hm : (u16 lh ll).toNat ≤ m + 2) (hl : (u16 lh ll).toNat < tail.length) :
    ∃ q, feedAll m (startedParser m) ([0xEF, 0x01, a0, a1, a2, a3, ty, lh, ll] ++ tail.take (u16 lh ll).toNat) = .ok (q, [])
      ∧ q.state.isTerminal = true
      ∧ feedAll m (startedParser m) ([0xEF, 0x01, a0, a1, a2, a3, ty, lh, ll] ++ tail)
        = .ok (q, tail.drop (u16 lh ll).toNat) := by
  obtain ⟨q, hq, hterm, -⟩ := feedAll_of_length a0 a1 a2 a3 ty h2 hm (List.length_take_of_le hl.le)
  have hrest := feedAll_ended (ys := tail.drop (u16 lh ll).toNat) hq (isWait_of_isTerminal hterm)
  rw [List.append_assoc, List.take_append_drop] at hrest
  exact ⟨q, hq, hterm, hrest⟩

/-- Settles O42: by the decoder's checks in their order, each with the parser's answer to such a buffer. -/
theorem decoderAndParserAgree : Obligations.DecoderAndParserAgree := by
  intro m a0 a1 a2 a3 ty lh ll s1 tail buf L hm hbuf ht hL
  rw [← u16_toNat] at hL
  subst hbuf hL
  have hhead := feedAll_header m a0 a1 a2 a3 ty lh ll
  have hlen : ([0xEF, s1, a0, a1, a2, a3, ty, lh, ll] ++ tail).length = tail.length + 9 := by simp
  rw [hlen]
  refine ⟨fun fr hd => ?decodes, fun hs => ?badStart, ?lenShort, ?lenLong, ?missing, ?extra, ?checksum⟩
  case decodes =>
    obtain ⟨he, hp⟩ := eq_encodeFrame_of_decodeFrame hd
    rw [he]
    exact feedAll_encodeFrame hp hm
  case badStart => exact ⟨decodeFrame_badStart ht (.inr hs), _, feedAll_badStart hs _, rfl, rfl⟩
  case lenShort =>
    rintro rfl h2
    rw [if_pos h2] at hhead
    exact ⟨(decodeFrame_badLength ht (.inl h2)).trans (by rw [if_pos h2]), _, feedAll_ended hhead rfl, rfl, rfl⟩
  case lenLong =>
    rintro rfl hl
    have h2 : ¬ (u16 lh ll).toNat < 2 := by omega
    rw [if_neg h2, if_pos (by omega)] at hhead
    exact ⟨(decodeFrame_badLength ht (.inr (.inl hl))).trans (by rw [if_neg h2, if_pos hl]), _,
      feedAll_ended hhead rfl, rfl, rfl⟩
  case missing =>
    rintro rfl h2 hl hb
    have hshort : tail.length < (u16 lh ll).toNat := by omega
    exact ⟨(decodeFrame_badLength ht (.inr (.inr hshort.ne))).trans
      (by rw [if_neg (by omega), if_neg (by omega), if_pos hshort]), feedAll_of_short a0 a1 a2 a3 ty h2 hl hshort⟩
  case extra =>
    rintro rfl h2 hl hb
    have hlong : (u16 lh ll).toNat < tail.length := by omega
    exact ⟨(decodeFrame_badLength ht (.inr (.inr hlong.ne'))).trans
      (by rw [if_neg (by omega), if_neg (by omega), if_neg (by omega)]), feedAll_of_long a0 a1 a2 a3 ty h2 hl hlong⟩
  case checksum =>
    rintro rfl h2 hl hb hd
    obtain ⟨q, hq, -, herr⟩ := feedAll_of_length a0 a1 a2 a3 ty h2 hl (by omega : tail.length = _)
    exact ⟨q, hq, herr hd⟩

end Sys2Proof.Machine
end

section
/-! SUPPORT. The Frame Parser in the machine (41_stream_assembler.md): the byte step in each wait state, the clock and the
timeout of a parse with nothing to read, and runs over noise. -/

namespace Sys2Proof.Machine

variable {m : Nat} {s t : State} {p q : Parser} {b : Byte} {rest : List Byte}

/-! ### The byte step in each wait state -/

/-- Settles O28: the byte step of the two marker states. -/
theorem parserHuntsTheStartMarker : Obligations.ParserHuntsTheStartMarker := by
  intro s t b rest ht hs hr
  refine ⟨fun hst => ?hi, fun hst => ?lo⟩
  case hi =>
    have hf : feed t.cfg.maxPayload t.prs b = feedWaitStartHi t.prs b := by simp only [feed, hst]
    rw [step_byte ht hs hr (by rw [hst]; rfl) hf]
    by_cases hb : b = 0xEF
    · rw [if_pos (c := b = startHi) hb, if_pos hb]
    · rw [if_neg (c := b = startHi) hb, if_neg hb]
  case lo =>
    have hf : feed t.cfg.maxPayload t.prs b = feedWaitStartLo t.prs b := by simp only [feed, hst]
    rw [step_byte ht hs hr (by rw [hst]; rfl) hf]
    by_cases hb : b = 0x01
    · rw [if_pos (c := b = startLo) hb, if_pos hb]
    · rw [if_neg (c := b = startLo) hb, if_neg hb]; rfl

/-- Settles O29: the byte step of ADDR for each of the four indices, and the value of the register. -/
theorem parserCapturesTheAddress : Obligations.ParserCapturesTheAddress := by
  refine ⟨fun s t b rest ht hs hr hst => ?step, fun w b0 b1 b2 b3 hw => ?value⟩
  case step =>
    have hf : feed t.cfg.maxPayload t.prs b = feedAddr t.prs b := by simp only [feed, hst]
    have hw : t.prs.state.isWait = true := by rw [hst]; rfl
    refine ⟨fun hi => ?_, fun hi => ?_, fun hi => ?_, fun hi => ?_⟩ <;>
      exact step_byte ht hs hr hw (by simp only [hf, feedAddr, hi]; rfl)
  case value => exact ⟨u32 b0 b1 b2 b3, by rw [hw]; rfl, u32_toNat b0 b1 b2 b3⟩

/-- Settles O30: the byte steps of TYPE and LEN_HI. -/
theorem parserCapturesTypeAndLengthHigh : Obligations.ParserCapturesTypeAndLengthHigh := by
  intro s t b rest ht hs hr
  refine ⟨fun hst => ?type, fun acc hst hacc => ?lenHi⟩
  case type => exact step_byte ht hs hr (by rw [hst]; rfl) (by simp only [feed, hst]; rfl)
  case lenHi => exact step_byte ht hs hr (by rw [hst]; rfl) (by simp only [feed, hst, feedLenHi, hacc]; rfl)

/-- What LEN_LO answers, with the length as a number (R138). -/
theorem feed_lenLo {h : Byte} {acc : Half} (hst : p.state = .lenLo) (hh : p.lenHi = some h) (ha : p.acc = some acc) :
    feed m p b = .ok (
      if h.toNat * 256 + b.toNat < 2 then
        { p with lenLo := some b, acc := some (acc + zext16 b), state := .err, err := some .lenShort }
      else if m + 2 < h.toNat * 256 + b.toNat then
        { p with lenLo := some b, acc := some (acc + zext16 b), state := .err, err := some .lenLong }
      else
        { p with
          lenLo := some b, acc := some (acc + zext16 b), n := some (BitVec.ofNat 16 (h.toNat * 256 + b.toNat - 2))
          idx := 0, state := if h.toNat * 256 + b.toNat = 2 then .sumHi else .payload }) := by
  simp only [feed, hst, feedLenLo, hh, ha, need_some, ok_bind, ← u16_toNat]
  by_cases h2 : (u16 h b).toNat < 2
  · rw [if_pos h2, if_pos h2]; rfl
  rw [if_neg h2, if_neg h2]
  by_cases hm : m + 2 < (u16 h b).toNat
  · rw [if_pos hm, if_pos (by omega)]; rfl
  rw [if_neg hm, if_neg (by omega)]
  rw [← prsN_toNat (by omega), BitVec.ofNat_toNat, BitVec.setWidth_eq]

/-- Settles O31: the byte step of LEN_LO, by the length. -/
theorem parserChecksTheLength : Obligations.ParserChecksTheLength := by
  intro s t b h acc rest ht hs hr hst hh ha
  rw [step_byte ht hs hr (by rw [hst]; rfl) (feed_lenLo hst hh ha)]
  refine ⟨fun h2 => ?short, fun hm => ?long, fun h2 hm => ?legal⟩
  case short => rw [if_pos h2]; rfl
  case long => rw [if_neg (by omega), if_pos hm]; rfl
  case legal => rw [if_neg (by omega), if_neg (by omega)]; rfl

/-- Settles O32: the byte step of PAYLOAD at a legal index. -/
theorem parserStoresThePayload : Obligations.ParserStoresThePayload := by
  intro s t b n acc rest ht hs hr hst hn ha hin hib
  refine step_byte ht hs hr (by rw [hst]; rfl) ?_
  simp only [feed, hst, feedPayload, hn, ha, need_some, ok_bind]
  rw [if_neg (by omega)]
  split <;> rfl

/-- What SUM_LO answers, with the two checksums as numbers (R141). -/
theorem feed_sumLo {h : Byte} {acc : Half} (hst : p.state = .sumLo) (hh : p.sumHi = some h) (ha : p.acc = some acc) :
    feed m p b = .ok (if h.toNat * 256 + b.toNat = acc.toNat then { p with state := .done }
      else { p with state := .err, err := some .badChecksum }) := by
  simp only [feed, hst, feedSumLo, hh, ha, need_some, ok_bind, ← u16_toNat, BitVec.toNat_inj, Parser.fail]

/-- Settles O33: the byte steps of SUM_HI and SUM_LO; the two checksums are compared as numbers. -/
theorem parserComparesTheChecksum : Obligations.ParserComparesTheChecksum := by
  intro s t b rest ht hs hr
  refine ⟨fun hst => ?sumHi, fun h acc hst hh ha => ?sumLo, rfl, rfl⟩
  case sumHi => exact step_byte ht hs hr (by rw [hst]; rfl) (by simp only [feed, hst]; rfl)
  case sumLo =>
    rw [step_byte ht hs hr (by rw [hst]; rfl) (feed_sumLo hst hh ha)]
    split <;> rfl

/-! ### The clock -/

/-- A tick that is enabled is the tick step (R142). -/
theorem step_tick {turns : List Turn} (ha : s.agenda = .tick :: turns) (he : tickEnabled s = .ok true) :
    step s = .next ({ s with agenda := turns } : State).tick := by
  simp only [step, ha, tickTurn, he]

/-- A tick that is not enabled leaves the turn to the FPE and stays at the head of the agenda (R144). -/
theorem step_heldTick {turns : List Turn} (ha : s.agenda = .tick :: turns) (he : tickEnabled s = .ok false) :
    step s = fpeStep s := by
  simp only [step, ha, tickTurn, he]

theorem tick_of_active (ha : s.parserActive = true) :
    s.tick = { s with elapsedMs := BitVec.ofNat 32 (min (s.elapsedMs.toNat + 1) 0xFFFFFFFF) } := by
  simp only [State.tick, ha, if_true, tick_elapsed]

theorem tick_of_inactive (ha : s.parserActive = false) : s.tick = s := by
  simp [State.tick, ha]

/-- Settles O34: the tick step, by whether the parser is active. -/
theorem tickCountsWhileTheParserIsActive : Obligations.TickCountsWhileTheParserIsActive := by
  intro s turns ha
  refine ⟨fun hin => ?inactive, fun timeout hs hw hto hen => ?active⟩
  case inactive =>
    have hin : s.parserActive = false := by
      rw [← Bool.not_eq_true, parserActive_iff]
      obtain h | h := hin <;> simp [h]
    rw [step_tick ha (tickEnabled_of_inactive hin), tick_of_inactive (by exact hin)]
  case active =>
    have hact : s.parserActive = true := parserActive_iff.mpr ⟨hs, hw⟩
    have hen : tickEnabled s = .ok true := by
      rw [tickEnabled_of_active hact hto, decide_eq_true]
      rintro ⟨hr, hdue⟩
      obtain h | h | h := hen
      · exact absurd hr h
      · omega
      · exact h
    rw [step_tick ha hen, tick_of_active (by exact hact)]

/-! ### The timeout of a parse with nothing to read -/

/-- An active parse with this timeout and nothing to read. -/
def State.Silent (s : State) (timeout : Word) : Prop :=
  s.seqState = .rx ∧ s.prs.state.isWait = true ∧ s.rxq = [] ∧ s.prsTimeout = some timeout

variable {timeout : Word}

/-- The FPE's step of an active parse is its wait for a byte or for the timeout (R132, R143). -/
theorem fpeStep_waiting (hs : s.seqState = .rx) (hw : s.prs.state.isWait = true) : fpeStep s = toOutcome (waitPhase s) := by
  rw [fpeStep_busy (by simp [hs])]
  simp only [continueRequest, hs, rxPhase, hw, if_true]

/-- With nothing to read the FPE takes the Timeout step once it is due, and waits before (R143). -/
theorem State.Silent.fpeStep_eq (h : s.Silent timeout) :
    fpeStep s = .next (if timeout.toNat ≤ s.elapsedMs.toNat then timeoutStep s else s) := by
  obtain ⟨hs, hw, hr, hto⟩ := h
  rw [fpeStep_waiting hs hw]
  simp [waitPhase, hr, timeoutEnabled_of_active (parserActive_iff.mpr ⟨hs, hw⟩) hto]

/-- A tick waits exactly when the Timeout step is due and the poll limit is reached (R144). -/
theorem State.Silent.tickEnabled_eq (h : s.Silent timeout) : tickEnabled s
    = .ok (decide (timeout.toNat ≤ s.elapsedMs.toNat → s.elapsedMs.toNat < pollLimit s.cfg timeout)) := by
  obtain ⟨hs, hw, hr, hto⟩ := h
  simp only [tickEnabled_of_active (parserActive_iff.mpr ⟨hs, hw⟩) hto, hr, true_and]

/-- FEED never reaches TIMEOUT: that is the Timeout step's (R143). -/
theorem feed_ne_timeout (hw : p.state.isWait = true) (h : feed m p b = .ok q) : q.state ≠ .timeout := by
  cases hst : p.state <;> simp only [hst, PrsState.isWait, Bool.false_eq_true] at hw <;> simp only [feed, hst] at h
  case waitStartHi => cases h; split <;> simp [hst]
  case waitStartLo => cases h; split <;> simp [Parser.fail]
  case addr =>
    unfold feedAddr at h
    split at h; · cases h
    split at h <;> cases h <;> simp [hst]
  case type | sumHi => cases h; simp
  case lenHi =>
    simp only [feedLenHi, bind_eq_ok] at h
    obtain ⟨_, -, h⟩ := h
    cases h; simp
  case lenLo =>
    simp only [feedLenLo, bind_eq_ok] at h
    obtain ⟨_, -, _, -, h⟩ := h
    split at h; · cases h; simp [Parser.fail]
    split at h <;> cases h
    · simp [Parser.fail]
    · simp only; split <;> simp
  case payload =>
    simp only [feedPayload, bind_eq_ok] at h
    obtain ⟨_, -, _, -, h⟩ := h
    split at h; · cases h
    split at h <;> cases h <;> simp [hst]
  case sumLo =>
    simp only [feedSumLo, bind_eq_ok] at h
    obtain ⟨_, -, _, -, h⟩ := h
    cases h; split <;> simp [Parser.fail]

/-- Settles O35: the wait of an active parse, by what `RXQ` and the clock hold. -/
theorem timeoutNeedsAnEmptyQueueAndThePassedTime : Obligations.TimeoutNeedsAnEmptyQueueAndThePassedTime := by
  intro s t timeout ht hs hw hto
  refine ⟨fun hr hdue => ?due, fun hr hlt => ?early, fun b rest u hr hu => ?byte⟩
  case due => rw [step_fpeTurn ht, State.Silent.fpeStep_eq ⟨hs, hw, hr, hto⟩, if_pos hdue]; rfl
  case early => rw [step_fpeTurn ht, State.Silent.fpeStep_eq ⟨hs, hw, hr, hto⟩, if_neg (by omega)]
  case byte =>
    rw [step_fpeTurn ht, fpeStep_waiting hs hw, toOutcome_eq_next, waitPhase, hr] at hu
    obtain ⟨q, hf, rfl⟩ := byteStep_eq_ok.mp hu
    exact ⟨rfl, feed_ne_timeout hw hf⟩

/-- Settles O36: the tick is not enabled, and the FPE's step is due. -/
theorem tickWaitsForTheTimeoutAtThePollLimit : Obligations.TickWaitsForTheTimeoutAtThePollLimit := by
  intro s turns timeout ha hs hw hr hto hdue hlim
  have hsil : s.Silent timeout := ⟨hs, hw, hr, hto⟩
  have hheld : tickEnabled s = .ok false := by
    rw [hsil.tickEnabled_eq, decide_eq_false fun h => Nat.not_lt.mpr hlim (h hdue)]
  rw [step_heldTick ha hheld, hsil.fpeStep_eq, if_pos hdue]; rfl

/-- Everything a turn of the clock or of the FPE can do to a silent parse (R142 to R144). -/
inductive SilentMove (s : State) (timeout : Word) (turns : List Turn) : Turn → State → Prop where
  /-- The Timeout step, in the FPE's turn or in that of a tick that waits. -/
  | timesOut (turn : Turn) (agenda : List Turn) (hdue : timeout.toNat ≤ s.elapsedMs.toNat) :
      SilentMove s timeout turns turn (timeoutStep { s with agenda := agenda })
  | waits (hlt : s.elapsedMs.toNat < timeout.toNat) : SilentMove s timeout turns .fpe { s with agenda := turns }
  | counts (e : Word) (he : e.toNat = s.elapsedMs.toNat + 1) (hle : e.toNat ≤ timeout.toNat + s.cfg.pollMs) :
      SilentMove s timeout turns .tick { s with agenda := turns, elapsedMs := e }

/-- The next millisecond, where the count does not saturate (R142). -/
theorem elapsed_succ_toNat {e : Word} (h : e.toNat < 0xFFFFFFFF) :
    (BitVec.ofNat 32 (min (e.toNat + 1) 0xFFFFFFFF)).toNat = e.toNat + 1 := by
  rw [BitVec.toNat_ofNat]; omega

/-- A silent parse always has its next step under these turns. -/
theorem State.Silent.step_move {turn : Turn} {turns : List Turn} (h : s.Silent timeout) (ha : s.agenda = turn :: turns)
    (hturn : turn = .tick ∨ turn = .fpe) : ∃ t, step s = .next t ∧ SilentMove s timeout turns turn t := by
  have ⟨hs, hw, hr, hto⟩ := h
  obtain rfl | rfl := hturn
  case inl =>
    by_cases hheld : timeout.toNat ≤ s.elapsedMs.toNat ∧ pollLimit s.cfg timeout ≤ s.elapsedMs.toNat
    · obtain ⟨hdue, hlim⟩ := hheld
      exact ⟨_, tickWaitsForTheTimeoutAtThePollLimit s turns timeout ha hs hw hr hto hdue hlim, .timesOut _ s.agenda hdue⟩
    · have hen : s.elapsedMs.toNat < timeout.toNat ∨ s.elapsedMs.toNat < min (timeout.toNat + s.cfg.pollMs) 0xFFFFFFFF := by
        rw [pollLimit] at hheld; omega
      have := timeout.isLt
      have he := elapsed_succ_toNat (e := s.elapsedMs) (by omega)
      have := s.cfg.pollMs_pos
      exact ⟨_, (tickCountsWhileTheParserIsActive s turns ha).2 timeout hs hw hto (.inr hen), .counts _ he (by omega)⟩
  case inr =>
    have hsil : ({ s with agenda := turns } : State).Silent timeout := h
    rw [step_fpeTurn (.inr ⟨turns, ha, rfl⟩), hsil.fpeStep_eq]
    refine ⟨_, rfl, ?_⟩
    by_cases hdue : timeout.toNat ≤ s.elapsedMs.toNat
    · rw [if_pos hdue]; exact .timesOut _ turns hdue
    · rw [if_neg hdue]; exact .waits (by omega)

/-- Settles O38: each move of a silent parse keeps the limit. -/
theorem silentParseStaysWithinThePollLimit : Obligations.SilentParseStaysWithinThePollLimit := by
  intro s t timeout turn turns hs hw hr hto hlim ha hturn hst
  obtain ⟨u, hu, hm⟩ := State.Silent.step_move ⟨hs, hw, hr, hto⟩ ha hturn
  obtain rfl : u = t := by simpa [hu] using hst
  cases hm with
  | timesOut _ _ hdue => exact ⟨hr, hs, hto, rfl, hlim, .inl ⟨rfl, hdue⟩⟩
  | waits => exact ⟨hr, hs, hto, rfl, hlim, .inr rfl⟩
  | counts e he hle => exact ⟨hr, hs, hto, rfl, hle, .inr rfl⟩

/-- A silent parse within the limit times out in the turns to come if these have more ticks than the limit leaves (R152). -/
theorem State.Silent.run_timeout {later turns : List Turn} (hturns : ∀ turn ∈ turns, turn = .tick ∨ turn = .fpe) :
    ∀ {s : State}, s.Silent timeout → s.elapsedMs.toNat ≤ timeout.toNat + s.cfg.pollMs →
      timeout.toNat + s.cfg.pollMs < s.elapsedMs.toNat + turns.count .tick → s.agenda = turns ++ later →
      ∃ j t, j ≤ turns.length ∧ Host.Core.run Sys2Proof.core j s = .next t ∧ t.prs.state = .timeout
        ∧ timeout.toNat ≤ t.elapsedMs.toNat ∧ t.elapsedMs.toNat ≤ timeout.toNat + s.cfg.pollMs := by
  induction turns with
  | nil => intro s _ hlim hcount; simp at hcount; omega
  | cons turn turns ih =>
    intro s hsil hlim hcount ha
    rw [List.forall_mem_cons] at hturns
    obtain ⟨hturn, hturns⟩ := hturns
    obtain ⟨u, hu, hm⟩ := hsil.step_move ha hturn
    cases hm with
    | timesOut _ agenda hdue => exact ⟨1, _, by simp, run_one hu, rfl, hdue, hlim⟩
    | waits =>
      obtain ⟨j, t, hj, hrun, ht⟩ := ih hturns (s := { s with agenda := turns ++ later }) hsil hlim
        (by simpa using hcount) rfl
      exact ⟨j + 1, t, by simpa using hj, (run_succ hu).trans hrun, ht⟩
    | counts e he hle =>
      obtain ⟨j, t, hj, hrun, ht⟩ := ih hturns (s := { s with agenda := turns ++ later, elapsedMs := e }) hsil hle
        (by simp at hcount ⊢; omega) rfl
      exact ⟨j + 1, t, by simpa using hj, (run_succ hu).trans hrun, ht⟩

/-- Settles O37: from 0 the ticks to come are more than the limit leaves. -/
theorem silenceTimesOutWithinOnePoll : Obligations.SilenceTimesOutWithinOnePoll := by
  intro s timeout turns later hs hw hr hto h0 hturns hcount ha
  exact State.Silent.run_timeout hturns ⟨hs, hw, hr, hto⟩ (by simp [h0]) (by simpa [h0] using hcount) ha

/-! ### Runs over noise -/

/-- Settles O40: the resynchronisation law of FEED, one step for each byte. -/
theorem resynchronisationOnNoise : Obligations.ResynchronisationOnNoise := by
  intro s a ty p junk rest timeout hp hj ha hr
  obtain ⟨q, hq, hdone, hframe⟩ := feedAll_resynchronises (a := a) (ty := ty) hp s.cfg.maxPayload_le hj
  refine ⟨{ s.parsing timeout with prs := q, rxq := rest }, ?_, hdone, hframe, rfl, rfl⟩
  have hrun := run_feed (s := s.parsing timeout) ha rfl hr hq
  rwa [List.length_append, encodeFrame_length] at hrun

/-- Settles O41: the noise is skipped, and the two bytes behind it end the parse. -/
theorem strayMarkerByteEndsTheParse : Obligations.StrayMarkerByteEndsTheParse := by
  intro s b junk rest timeout hj hb ha hr
  have hq : feedAll s.cfg.maxPayload (startedParser s.cfg.maxPayload) (junk ++ [0xEF, b])
      = .ok ((startedParser s.cfg.maxPayload).fail .badStart, []) := by
    rw [feedAll_append (feedAll_noise rfl hj)]; exact feedAll_badStart hb []
  have hrun := run_feed (s := s.parsing timeout) (rest := rest) ha rfl (by simpa [State.parsing] using hr) hq
  rwa [List.length_append] at hrun

end Sys2Proof.Machine
end

section
/-! SUPPORT. The command protocol (42_command_protocol.md): the accept step, the steps that send a frame, the finish step for
each way a parse can end, and a whole EXECUTE put together from them. -/

namespace Sys2Proof.Machine

variable {s t : State}

/-! ### The accept step -/

/-- A request that fails CHECK is copied and rejected, whatever its header (R170). -/
theorem accept_of_check_error {r : Request} {m : Misuse} (hs : s.seqState = .idle)
    (h : check s.cfg s.password r = .error m) : accept r s = s.rejecting r.kind r.selector r.fields m.code := by
  simp only [accept, h, State.respond, State.latch, State.rejecting, misuseResponse, ← hs]

/-- `accept_of_check_error` for a header put together from its fields. -/
theorem accept_of_check_error_headerOf {k : BitVec 2} {c : BitVec 4} {f : Fields} {m : Misuse} (hs : s.seqState = .idle)
    (h : check s.cfg s.password ⟨headerOf c k, f⟩ = .error m) :
    accept ⟨headerOf c k, f⟩ s = s.rejecting k c f m.code := by
  rw [accept_of_check_error hs h, headerOf_kind, headerOf_selector]

/-- A request that passes CHECK with a frame to send is copied and starts that frame (R170, R174, R186). -/
theorem accept_of_check_send {k : BitVec 2} {c : BitVec 4} {f : Fields} {ty : Byte} {p : List Byte}
    (h : check s.cfg s.password ⟨headerOf c k, f⟩ = .ok (.send ty p)) :
    accept ⟨headerOf c k, f⟩ s = s.sending k c f ty p := by
  simp only [accept, h, start, State.latch_address, startTransmit_latch]

/-- A reserved bit or the reserved kind fails CHECK first (R172). -/
theorem check_of_reserved {r : Request} (cfg : Config) (w : Word) (h : r.reserved ≠ 0 ∨ r.kind = 3) :
    check cfg w r = .error .badRequest := by
  by_cases hres : r.reserved = 0
  · have hk : r.kind = 3 := h.resolve_left (not_not.mpr hres)
    simp [check, hres, hk, kindExecute, kindSendFrame, kindReceiveFrame]
  · simp only [check, if_pos hres]

/-- Every record the host offers in IDLE is accepted, its header reserved or not (R170, R172). -/
theorem acceptLine_record (hs : s.seqState = .idle) (r : Request) : acceptLine (.record r) s = .next (accept r s) := by
  cases hi : decode (.host (.record r)) with
  | error e => simp only [acceptLine, hi]
  | ok i => simp only [acceptLine, hi, exec_record hi, runRequest_idle hs]

theorem acceptLine_of_decode {l : HostLine} {i : Instr} (hi : decode (.host l) = .ok i) (s : State) :
    acceptLine l s = exec i s := by
  simp only [acceptLine, hi]

/-- In the FPE's turn in IDLE the offered line is accepted (R170). -/
theorem step_offered {l : HostLine} {rest : List HostLine} (ht : s.fpeTurn t) (hs : t.seqState = .idle)
    (hq : t.hostq = l :: rest) : step s = acceptLine l { t with hostq := rest } := by
  rw [step_fpeTurn ht, fpeStep_offered hs hq]

theorem exec_execute (c : BitVec 4) (f : Fields) (hs : s.seqState = .idle) :
    exec (.execute c f) s = .next (accept ⟨headerOf c kindExecute, f⟩ s) := runRequest_idle hs

theorem exec_sendFrame (c : BitVec 4) (f : Fields) (hs : s.seqState = .idle) :
    exec (.sendFrame c f) s = .next (accept ⟨headerOf c kindSendFrame, f⟩ s) := runRequest_idle hs

theorem exec_receiveFrame (c : BitVec 4) (f : Fields) (hs : s.seqState = .idle) :
    exec (.receiveFrame c f) s = .next (accept ⟨headerOf c kindReceiveFrame, f⟩ s) := runRequest_idle hs

/-- A payload above the bound is PAYLOAD_TOO_LONG (R173, R186). -/
theorem checkLength_of_gt {cfg : Config} {p : List Byte} (ty : Byte) (h : cfg.maxPayload < p.length) :
    checkLength cfg ty p = .error .payloadTooLong := if_pos h

/-- A payload within the bound is sent (R173, R186). -/
theorem checkLength_of_le {cfg : Config} {p : List Byte} (ty : Byte) (h : p.length ≤ cfg.maxPayload) :
    checkLength cfg ty p = .ok (.send ty p) := if_neg (Nat.not_lt.mpr h)

/-- CHECK of an EXECUTE with a reserved selector (R173). -/
theorem check_reservedSelector {c : BitVec 4} (cfg : Config) (w : Word) (f : Fields) (h : 12 < c.toNat) :
    check cfg w ⟨headerOf c kindExecute, f⟩ = .error .badCommand := by
  simp only [check_execute, checkExecute, headerOf_selector, ofSelector_eq_none.mpr h]

/-- CHECK of the EXECUTE of a command: its arguments, then the length of its payload (R173). -/
theorem check_command (cfg : Config) (w : Word) (c : Command) (f : Fields) :
    check cfg w ⟨headerOf c.selector kindExecute, f⟩
      = (argCheck cfg c f >>= fun _ => checkLength cfg typeCommand (cmdPayload cfg w c f)) := by
  simp only [check_execute, checkExecute, headerOf_selector, ofSelector_selector]

/-- The EXECUTE of a command with good arguments and a payload within the bound passes CHECK (R173, R174). -/
theorem check_command_ok {cfg : Config} {w : Word} {c : Command} {f : Fields} (ha : argCheck cfg c f = .ok ())
    (hl : (cmdPayload cfg w c f).length ≤ cfg.maxPayload) :
    check cfg w ⟨headerOf c.selector kindExecute, f⟩ = .ok (.send typeCommand (cmdPayload cfg w c f)) := by
  rw [check_command, ha, ok_bind, checkLength_of_le _ hl]

theorem sendableType_iff {ty : Byte} : sendableType ty = true ↔ ty = 0x01 ∨ ty = 0x02 ∨ ty = 0x07 ∨ ty = 0x08 := by
  simp only [sendableType, Bool.or_eq_true, decide_eq_true_eq, or_assoc]
  rfl

/-- CHECK of SEND_FRAME: the type, then the length (R186). -/
theorem check_sendFrame_eq (cfg : Config) (w : Word) (c : BitVec 4) (f : Fields) :
    check cfg w ⟨headerOf c kindSendFrame, f⟩
      = if sendableType f.ftype then checkLength cfg f.ftype f.payload else .error .badFrameType :=
  check_sendFrame cfg w c f

/-- Settles O22: the three checks of R173 in their order, each with the state it leads to. -/
theorem executeStartsItsCommand : Obligations.ExecuteStartsItsCommand := by
  intro s f hs
  refine ⟨fun c hc => ?selector, fun c => ⟨fun m hm => ?arguments, fun ha hl => ?length, fun ha hl => ?starts⟩⟩ <;>
    rw [exec_execute _ _ hs]
  case selector => rw [accept_of_check_error_headerOf hs (check_reservedSelector _ _ f hc)]; rfl
  case arguments => rw [accept_of_check_error_headerOf hs (by rw [check_command, hm, error_bind])]; rfl
  case length =>
    rw [accept_of_check_error_headerOf hs (by rw [check_command, ha, ok_bind, checkLength_of_gt _ hl])]; rfl
  case starts => rw [accept_of_check_send (check_command_ok ha hl)]; rfl

/-- Settles O23: the two checks of R186 in their order, each with the state it leads to. -/
theorem sendFrameStartsOrRejects : Obligations.SendFrameStartsOrRejects := by
  intro s c f hs
  have hc := check_sendFrame_eq s.cfg s.password c f
  rw [exec_sendFrame c f hs]
  refine ⟨fun h1 h2 h7 h8 => ?type, fun hty => ?sendable⟩
  case type =>
    rw [if_neg (by simp only [sendableType_iff, not_or]; exact ⟨h1, h2, h7, h8⟩)] at hc
    rw [accept_of_check_error_headerOf hs hc]; rfl
  case sendable =>
    rw [if_pos (sendableType_iff.mpr hty)] at hc
    refine ⟨fun hl => ?length, fun hl => ?starts⟩
    case length => rw [accept_of_check_error_headerOf hs (hc.trans (checkLength_of_gt _ hl))]; rfl
    case starts => rw [accept_of_check_send (hc.trans (checkLength_of_le _ hl))]; rfl

/-- Settles O24: RECEIVE_FRAME passes CHECK, and its plan is a parse. -/
theorem receiveFrameStartsAParse : Obligations.ReceiveFrameStartsAParse := by
  intro s c f hs
  rw [exec_receiveFrame c f hs]
  simp only [accept, check_receiveFrame, start, State.latch, headerOf_kind, headerOf_selector]
  rfl

/-- Settles O10: in IDLE the FPE's step accepts the offered line, and a line that decodes is run. -/
theorem stepRunsTheOfferedRequest : Obligations.StepRunsTheOfferedRequest :=
  fun _ _ _ _ _ ht hs hq hi => (step_offered ht hs hq).trans (acceptLine_of_decode hi _)

/-- Settles O15: the reserved record is accepted and fails the first check. -/
theorem reservedHeaderIsRejected : Obligations.ReservedHeaderIsRejected := by
  intro s t hdr f rest ht hs hq hres
  rw [step_offered ht hs hq, acceptLine_record (by exact hs), accept_of_check_error (by exact hs)
    (check_of_reserved (r := ⟨hdr, f⟩) _ _ hres)]
  rfl

/-! ### A request in progress -/

/-- Settles O11: outside IDLE the FPE's step is the next step of the request that the registers hold. -/
theorem stepContinuesTheRequestInProgress : Obligations.StepContinuesTheRequestInProgress := by
  intro s t r i ht hs hr hi
  rw [step_fpeTurn ht, fpeStep_busy hs, exec_record hi, runRequest_inProgress hs hr]

/-- Settles O14: a record that decodes is run as itself, and the request step does not take it. -/
theorem requestIsHeldWhileBusy : Obligations.RequestIsHeldWhileBusy := by
  intro s r i hs hi hr
  rw [exec_record hi, runRequest_held hs hr]

/-- From `s` to `t` the request registers stay and the host's channel loses nothing (R170, R183). -/
def State.KeepsRequest (s t : State) : Prop :=
  (∃ more, t.hostq = s.hostq ++ more) ∧ t.reqKind = s.reqKind ∧ t.reqCmd = s.reqCmd ∧ t.reqTimeout = s.reqTimeout
    ∧ t.reqA8 = s.reqA8 ∧ t.reqA16 = s.reqA16 ∧ t.reqA32 = s.reqA32 ∧ t.reqFtype = s.reqFtype

theorem State.KeepsRequest.refl (s : State) : s.KeepsRequest s :=
  ⟨⟨[], s.hostq.append_nil.symm⟩, rfl, rfl, rfl, rfl, rfl, rfl, rfl⟩

/-- No step on the request in progress writes a request register or takes from the host (R175 to R187). -/
theorem SeqMove.keepsRequest (hm : SeqMove s t) : s.KeepsRequest t := by
  cases hm <;> exact State.KeepsRequest.refl s

/-- Outside IDLE the FPE goes on with the request in progress: it accepts no other (R170). -/
theorem FpeMove.keepsRequest (hm : FpeMove s t) (hs : s.seqState ≠ .idle) : s.KeepsRequest t := by
  cases hm with
  | waitForRequest h => exact absurd h hs
  | accept _ _ _ h => exact absurd h hs
  | goOn _ _ hm => exact hm.keepsRequest

/-- Settles O60: of the moves that the inversion lemma of the step names, outside IDLE only reset writes them. -/
theorem noRequestIsTakenWhileBusy : Obligations.NoRequestIsTakenWhileBusy := by
  intro s t hst hs hrst
  cases step_move hst with
  | fpeAlone _ _ hm => exact hm.keepsRequest hs
  | fpe _ rest _ hm => exact hm.keepsRequest hs
  | heldTick _ _ _ _ hm => exact hm.keepsRequest hs
  | tick => unfold State.tick; split <;> exact State.KeepsRequest.refl s
  | offer l => exact ⟨⟨[l], rfl⟩, rfl, rfl, rfl, rfl, rfl, rfl, rfl⟩
  | rx => exact State.KeepsRequest.refl s
  | txReady => exact State.KeepsRequest.refl s
  | rst cfg rest ha => exact absurd ha (hrst cfg rest)

/-! ### Sending the frame -/

/-- In TX the FPE's step is the transmit step or the end of the transmission (R175, R176). -/
theorem step_txPhase (ht : s.fpeTurn t) (hs : t.seqState = .tx) : step s = toOutcome (txPhase t) := by
  rw [step_fpeTurn ht, fpeStep_busy (by simp [hs])]
  simp only [continueRequest, hs]

/-- In its turn the FPE sends the next byte of the frame to a ready transport (R175). -/
theorem step_transmit {b : Byte} (ht : s.fpeTurn t) (hs : t.seqState = .tx) (hi : t.txIdx.toNat < t.txLen.toNat)
    (hr : t.txReady = true) (hb : readAt t.txBuf t.txIdx.toNat = some b) :
    step s = .next { t with txStream := t.txStream ++ [b], txIdx := t.txIdx + 1 } := by
  rw [step_txPhase ht hs]
  simp only [txPhase, if_pos hi, if_pos hr, transmitStep, hb, need_some, ok_bind, toOutcome_ok, State.transmit]

/-- Settles O26: the transmit step with `tx_ready` up and down, and the transport's turn. -/
theorem transmitStepWritesTheNextByte : Obligations.TransmitStepWritesTheNextByte := by
  refine ⟨fun s t b ht hs hi hb => ⟨fun hr => ?ready, fun hr => ?stalled⟩, fun s ready rest ha => ?level⟩
  case ready => exact step_transmit ht hs hi hr (by rw [readAt, hb, Option.join_some])
  case stalled => rw [step_txPhase ht hs, txPhase, if_pos hi, if_neg (by simp [hr]), toOutcome_ok]
  case level => simp only [step, ha, State.setTxReady]

/-- In its turn after the last byte the FPE takes the end-of-transmit step (R176). -/
theorem step_endOfTransmit (ht : s.fpeTurn t) (hs : t.seqState = .tx) (hi : t.txIdx = t.txLen) :
    step s = toOutcome (endOfTransmit t) := by
  rw [step_txPhase ht hs, txPhase, hi, if_neg (Nat.lt_irrefl _), if_pos rfl]

/-- After the last byte of a command frame the parse of the reply starts (R176). -/
theorem endOfTransmit_execute {timeout : Word} (hk : s.reqKind = some kindExecute) (hto : s.reqTimeout = some timeout) :
    endOfTransmit s = .ok (s.startParse timeout) := by
  simp only [endOfTransmit, hk, hto, need_some, ok_bind, if_true]

/-- After the last byte of a frame that SEND_FRAME sends, the host gets OK (R176). -/
theorem endOfTransmit_sendFrame (hk : s.reqKind = some kindSendFrame) : endOfTransmit s = .ok (s.respond { kind := .ok }) := by
  simp only [endOfTransmit, hk, need_some, ok_bind, if_neg (show kindSendFrame ≠ kindExecute by decide), if_true]

/-- Settles O27: the end-of-transmit step for both kinds of request that send. -/
theorem endOfTransmitStartsTheParseOrResponds : Obligations.EndOfTransmitStartsTheParseOrResponds := by
  intro s t ht hs hi
  rw [step_endOfTransmit ht hs hi]
  exact ⟨fun timeout hk hto => congrArg toOutcome (endOfTransmit_execute hk hto),
    fun hk => congrArg toOutcome (endOfTransmit_sendFrame hk)⟩

/-- What is left of the frame in `TXBUF` is sent byte after byte, one step each, when the transport is ready and no other agent
moves (R175). -/
theorem run_transmit {xs : List Byte} : ∀ {sent : List Byte} {s : State}, s.agenda = [] → s.seqState = .tx →
    s.txReady = true → s.txHolds (sent ++ xs) → s.txIdx.toNat = sent.length →
    Host.Core.run Sys2Proof.core xs.length s
      = .next { s with txStream := s.txStream ++ xs, txIdx := BitVec.ofNat 17 (sent ++ xs).length } := by
  induction xs with
  | nil =>
    intro sent s _ _ _ _ hi
    rw [List.append_nil, List.append_nil, ← hi, BitVec.ofNat_toNat, BitVec.setWidth_eq]; rfl
  | cons x xs ih =>
    intro sent s ha hs hr hx hi
    have ⟨hbuf, hlen, _⟩ := hx
    have hlt : s.txIdx.toNat < s.txLen.toNat := by simp [hi, hlen]
    have hb : readAt s.txBuf s.txIdx.toNat = some x := by
      rw [readAt_of_take hbuf (hlen ▸ hlt), hi]; simp
    have hidx : (s.txIdx + 1).toNat = (sent ++ [x]).length := by
      have := s.txLen.isLt
      simp [BitVec.toNat_add]; omega
    have hsent : sent ++ x :: xs = (sent ++ [x]) ++ xs := by simp
    have hx' : ({ s with txStream := s.txStream ++ [x], txIdx := s.txIdx + 1 } : State).txHolds ((sent ++ [x]) ++ xs) := by
      rw [← hsent]
      exact ⟨hbuf, hlen, by simp only [hidx, hlen]; simp⟩
    rw [List.length_cons, run_succ (step_transmit (.inl ⟨ha, rfl⟩) hs hlt hr hb),
      ih (s := { s with txStream := s.txStream ++ [x], txIdx := s.txIdx + 1 }) ha hs hr hx' hidx, hsent]
    simp

/-! ### The finish step -/

/-- The end of a parsed request, as the statements write it (R177). -/
theorem conclude_eq_finished (s : State) (r : Response) : s.conclude r = s.finished r := rfl

/-- Settles O43: the finish step of a parse that ended in TIMEOUT or ERR. -/
theorem failedParseIsPropagated : Obligations.FailedParseIsPropagated := by
  intro s t ht hs
  refine ⟨fun hst => ?timeout, fun r code hst herr hcode => ?error⟩
  case timeout =>
    rw [step_finish ht hs (by rw [hst]; rfl)]
    simp only [finish, hst, toOutcome_ok, conclude_eq_finished]
  case error =>
    obtain rfl : r.code = code := by
      obtain ⟨rfl, rfl⟩ | ⟨rfl, rfl⟩ | ⟨rfl, rfl⟩ | ⟨rfl, rfl⟩ | ⟨rfl, rfl⟩ | ⟨rfl, rfl⟩ := hcode <;> rfl
    rw [step_finish ht hs (by rw [hst]; rfl)]
    simp only [finish, hst, herr, need_some, ok_bind, toOutcome_ok, formatErrorResponse, conclude_eq_finished]

/-- In its turn the FPE treats a completed frame by the kind of the request (R179, R187). -/
theorem step_finishFrame (ht : s.fpeTurn t) (hs : t.seqState = .rx) (hd : t.prs.state = .done) :
    step s = toOutcome (finishFrame t) := by
  rw [step_finish ht hs (by rw [hd]; rfl)]
  simp only [finish, hd]

/-- In its turn the FPE ends an EXECUTE whose frame is complete (R179 to R181). -/
theorem step_finishExecute (ht : s.fpeTurn t) (hs : t.seqState = .rx) (hd : t.prs.state = .done)
    (hk : t.reqKind = some kindExecute) : step s = toOutcome (finishExecute t) := by
  rw [step_finishFrame ht hs hd]
  simp only [finishFrame, hk, need_some, ok_bind, if_true]

/-- In its turn the FPE ends an EXECUTE that has its acknowledgement by the payload of that (R180, R181). -/
theorem step_finishAck {a : Word} {payload : List Byte} (ht : s.fpeTurn t) (hs : t.seqState = .rx)
    (hd : t.prs.state = .done) (hk : t.reqKind = some kindExecute) (hf : t.prs.frame = .ok ⟨a, typeAck, payload⟩) :
    step s = toOutcome (finishAck payload a t) := by
  rw [step_finishExecute ht hs hd hk, finishExecute_ack hf]

/-- A nonzero status is reported with the fields behind it (R181). -/
theorem finishAck_deviceStatus {st : Byte} (hst : st ≠ 0x00) (fs : List Byte) (a : Word) (s : State) :
    finishAck (st :: fs) a s = .ok (s.conclude (deviceStatusResponse st fs a)) := if_pos hst

/-- Status `0x00` gives the result of the command that the request registers hold (R181). -/
theorem finishAck_result {c : BitVec 4} (hc : s.reqCmd = some c) (fs : List Byte) (a : Word) :
    finishAck (0x00 :: fs) a s = .ok (resultOf c fs a s) := by
  simp [finishAck, hc]

/-- Settles O44: the three answers of R179, R180 and the first case of R181. -/
theorem executeReportsTheReply : Obligations.ExecuteReportsTheReply := by
  intro s t a ht hs hd hk
  refine ⟨fun ty hty ha hne => ?wrongType, fun hty ha hn => ?empty, fun st fs hf hst => ?status⟩
  case wrongType =>
    rw [step_finishExecute ht hs hd hk, finishExecute_wrongType hty ha hne, toOutcome_ok, conclude_eq_finished]; rfl
  case empty =>
    have hf : t.prs.frame = .ok ⟨a, typeAck, []⟩ := frame_eq_ok.mpr ⟨ha, hty, 0, hn, rfl⟩
    rw [step_finishAck ht hs hd hk hf]; rfl
  case status =>
    rw [step_finishAck ht hs hd hk hf, finishAck_deviceStatus hst, toOutcome_ok, conclude_eq_finished]; rfl

/-- Settles O49: a kind other than EXECUTE is answered with the frame as it is. -/
theorem receiveFrameDeliversAnyType : Obligations.ReceiveFrameDeliversAnyType := by
  intro s t fr ht hs hd hk hf
  rw [step_finishFrame ht hs hd]
  simp only [finishFrame, hk, hf, need_some, ok_bind]
  rfl

/-! ### The result of a command -/

theorem Command.selector_inj {c d : Command} (h : c.selector = d.selector) : c = d := by
  simpa using congrArg Command.ofSelector h

/-- The default result (43_device_operations.md R200). -/
theorem resultOf_default {c : Command} (hf : c ≠ .fastSearch) (hg : c ≠ .getTemplateCount) (fs : List Byte) (a : Word)
    (s : State) : resultOf c.selector fs a s = s.conclude (okResponse fs a) := by
  rw [resultOf, if_neg (mt Command.selector_inj hf), if_neg (mt Command.selector_inj hg)]

theorem resultOf_fastSearch (fs : List Byte) (a : Word) (s : State) :
    resultOf Command.fastSearch.selector fs a s = resultFastSearch fs a s := if_pos rfl

theorem resultOf_getTemplateCount (fs : List Byte) (a : Word) (s : State) :
    resultOf Command.getTemplateCount.selector fs a s = resultGetTemplateCount fs a s :=
  (if_neg (by decide)).trans (if_pos rfl)

/-- A FastSearch reply without room for both values is SHORT_ACK (43_device_operations.md R211). -/
theorem resultFastSearch_short {fs : List Byte} (h : fs.length < 4) (a : Word) (s : State) :
    resultFastSearch fs a s = s.conclude (shortAckResponse a) := by
  unfold resultFastSearch
  split
  · simp at h; omega
  · rfl

/-- A GetTemplateCount reply without room for the count is SHORT_ACK (43_device_operations.md R212). -/
theorem resultGetTemplateCount_short {fs : List Byte} (h : fs.length < 2) (a : Word) (s : State) :
    resultGetTemplateCount fs a s = s.conclude (shortAckResponse a) := by
  unfold resultGetTemplateCount
  split
  · simp at h
  · rfl

/-! ### A whole EXECUTE -/

/-- `s` after the accept step and the whole transmission of a command frame: the frame with this payload has been sent
(R174, R175). -/
def State.sent (s : State) (c : BitVec 4) (f : Fields) (pl : List Byte) : State :=
  { s.sending kindExecute c f typeCommand pl with
    txStream := s.txStream ++ encodeFrame s.address typeCommand pl
    txIdx := BitVec.ofNat 17 (11 + pl.length) }

/-- A frame just started is sent whole, one step for each byte (R175). -/
theorem run_sending {f : Fields} {pl : List Byte} (c : BitVec 4) (ha : s.agenda = []) (hr : s.txReady = true)
    (hl : pl.length ≤ s.cfg.maxPayload) :
    Host.Core.run Sys2Proof.core (11 + pl.length) (s.sending kindExecute c f typeCommand pl) = .next (s.sent c f pl) := by
  have hmax := s.cfg.maxPayload_le
  have hx : (s.sending kindExecute c f typeCommand pl).txHolds ([] ++ encodeFrame s.address typeCommand pl) := by
    rw [← startTransmit_latch]
    exact startTransmit_txHolds _ (by simp; omega)
  have hrun := run_transmit (s := s.sending kindExecute c f typeCommand pl) ha rfl hr hx rfl
  simp only [encodeFrame_length, List.nil_append] at hrun
  exact hrun

/-- An accepted EXECUTE runs to its completed acknowledgement: accept, one step for each byte sent, the end of the
transmission, one step for each byte read (R170 to R176, 41_stream_assembler.md R150). No other agent moves in this run. -/
theorem run_execute_toReply {c : Command} {f : Fields} {q : List HostLine} {a : Word} {ack junk rest : List Byte}
    (ha : s.agenda = []) (hs : s.seqState = .idle) (hr : s.txReady = true)
    (hq : s.hostq = .record ⟨headerOf c.selector kindExecute, f⟩ :: q) (hc : argCheck s.cfg c f = .ok ())
    (hl : (cmdPayload s.cfg s.password c f).length ≤ s.cfg.maxPayload) (hack : ack.length ≤ s.cfg.maxPayload)
    (hj : (0xEF : Byte) ∉ junk) (hrx : s.rxq = junk ++ encodeFrame a typeAck ack ++ rest) :
    ∃ p : Parser, p.state = .done ∧ p.frame = .ok ⟨a, typeAck, ack⟩
      ∧ Host.Core.run Sys2Proof.core
          (1 + (11 + (cmdPayload s.cfg s.password c f).length) + 1 + (junk.length + (11 + ack.length))) s
        = .next { (State.sent { s with hostq := q } c.selector f (cmdPayload s.cfg s.password c f)).parsing f.timeout with
            prs := p, rxq := rest } := by
  have haccept : step s
      = .next (State.sending { s with hostq := q } kindExecute c.selector f typeCommand
          (cmdPayload s.cfg s.password c f)) := by
    rw [step_offered (.inl ⟨ha, rfl⟩) hs hq, acceptLine_record (by exact hs)]
    exact congrArg _ (accept_of_check_send (s := { s with hostq := q }) (check_command_ok hc hl))
  have hsend := run_sending (s := { s with hostq := q }) (f := f) c.selector (by exact ha) (by exact hr) (by exact hl)
  have hparse := (endOfTransmitStartsTheParseOrResponds _ _
    (.inl ⟨by exact ha, rfl⟩ : (State.sent { s with hostq := q } c.selector f (cmdPayload s.cfg s.password c f)).fpeTurn _)
    rfl rfl).1 f.timeout rfl rfl
  obtain ⟨u, hread, hdone, hframe, -, hu⟩ := resynchronisationOnNoise
    (State.sent { s with hostq := q } c.selector f (cmdPayload s.cfg s.password c f)) a typeAck ack junk rest f.timeout
    (by exact hack) hj (by exact ha) (by exact hrx)
  rw [hu] at hread
  refine ⟨u.prs, hdone, hframe, ?_⟩
  rw [run_add _ _ ((run_add _ 1 ((run_add 1 _ (run_one haccept)).trans hsend)).trans (run_one hparse))]
  exact hread

/-- One more step ends an EXECUTE whose run has come to its acknowledgement (R177, R180, R181). -/
theorem run_finishAck {n : Nat} {u v : State} {a : Word} {payload : List Byte}
    (hrun : Host.Core.run Sys2Proof.core n s = .next u) (ha : u.agenda = []) (hs : u.seqState = .rx)
    (hd : u.prs.state = .done) (hk : u.reqKind = some kindExecute) (hf : u.prs.frame = .ok ⟨a, typeAck, payload⟩)
    (hv : finishAck payload a u = .ok v) : Host.Core.run Sys2Proof.core (n + 1) s = .next v :=
  (run_add n 1 hrun).trans (run_one (by rw [step_finishAck (.inl ⟨ha, rfl⟩) hs hd hk hf, hv, toOutcome_ok]))

/-- Settles O50: the run to the completed acknowledgement, then the finish step by the status and the command. -/
theorem executeRunsFromRequestToResponse : Obligations.ExecuteRunsFromRequestToResponse := by
  intro s c f q a st pl fs junk rest ha hs hr hq hc hpl hl hack hj hrx
  subst hpl
  obtain ⟨p, hdone, hframe, hrun⟩ := run_execute_toReply (ack := st :: fs) ha hs hr hq hc hl hack hj hrx
  refine ⟨p, hdone, hframe, fun n u hn hu => ?_⟩
  have hfinish : ∀ v, finishAck (st :: fs) a u = .ok v → Host.Core.run Sys2Proof.core n s = .next v := by
    subst hn hu
    exact fun v => run_finishAck hrun ha rfl hdone rfl hframe
  have hresult : st = 0 → finishAck (st :: fs) a u = .ok (resultOf c.selector fs a u) := by
    rintro rfl
    exact finishAck_result (by rw [hu]; rfl) fs a
  refine ⟨fun hst => ?status, fun hst hf hg => ?default, fun i1 i0 c1 c0 more hst hcs hfs => ?matched,
    fun n1 n0 more hst hcs hfs => ?counted, fun hst hshort => ?short⟩
  case status => exact hfinish _ (finishAck_deviceStatus hst fs a u)
  case default => exact hfinish _ (by rw [hresult hst, resultOf_default hf hg]; rfl)
  case matched => exact hfinish _ (by rw [hresult hst, hcs, resultOf_fastSearch, hfs]; rfl)
  case counted => exact hfinish _ (by rw [hresult hst, hcs, resultOf_getTemplateCount, hfs]; rfl)
  case short =>
    obtain ⟨hcs, hlen⟩ | ⟨hcs, hlen⟩ := hshort
    · exact hfinish _ (by rw [hresult hst, hcs, resultOf_fastSearch, resultFastSearch_short hlen]; rfl)
    · exact hfinish _ (by rw [hresult hst, hcs, resultOf_getTemplateCount, resultGetTemplateCount_short hlen]; rfl)

end Sys2Proof.Machine
end

section
/-! SUPPORT. The catalogue (43_device_operations.md): a command is the EXECUTE of the record that carries its call, so that its
start is the accept step of that record and its end the finish step. -/

namespace Sys2Proof.Machine

variable {s : State} {i : Instr} {f : Fields}

/-! ### A command is the EXECUTE of its record -/

theorem encodeCall_inj {c d : Command} {g : Fields} (h : encodeCall c f = encodeCall d g) : c = d ∧ f = g := by
  simp only [encodeCall, Encoded.host.injEq, HostLine.call.injEq] at h
  obtain ⟨hop, hfields⟩ := h
  exact ⟨by simpa using congrArg Command.ofTableOpcode hop, hfields⟩

/-- An instruction that is encoded as a call means the EXECUTE of its command with the call's fields (30_encoding.md R77,
log 3). -/
theorem exec_of_encode_call {c : Command} (hi : encode i = encodeCall c f) (s : State) :
    exec i s = exec (.execute c.selector f) s := by
  cases i
  case frameCommand | frameData | frameAck | frameEndOfData | execute | sendFrame | receiveFrame => cases hi
  all_goals
    obtain ⟨rfl, rfl⟩ := encodeCall_inj hi
    rfl

/-! ### The argument checks -/

theorem slotOk_iff {x : Byte} : slotOk x = true ↔ x = 1 ∨ x = 2 := by simp [slotOk]

theorem checkSlot_eq_ok {x : Byte} (h : x = 1 ∨ x = 2) : checkSlot x = .ok () := if_pos (slotOk_iff.mpr h)

theorem checkSlot_eq_error {x : Byte} (h1 : x ≠ 1) (h2 : x ≠ 2) : checkSlot x = .error .badSlot :=
  if_neg (mt slotOk_iff.mp (not_or.mpr ⟨h1, h2⟩))

theorem locOk_iff {cfg : Config} {loc : Half} : locOk cfg loc = true ↔ loc.toNat < cfg.libraryCapacity := by simp [locOk]

theorem checkLocation_eq_ok {cfg : Config} {loc : Half} (h : loc.toNat < cfg.libraryCapacity) :
    checkLocation cfg loc = .ok () := if_pos (locOk_iff.mpr h)

theorem checkLocation_eq_error {cfg : Config} {loc : Half} (h : cfg.libraryCapacity ≤ loc.toNat) :
    checkLocation cfg loc = .error .badLocation := if_neg (mt locOk_iff.mp (Nat.not_lt.mpr h))

/-- LoadModel checks its buffer first (R206). -/
theorem argCheck_loadModel (cfg : Config) (f : Fields) :
    argCheck cfg .loadModel f = (checkSlot f.a8 >>= fun _ => checkLocation cfg f.a16) := rfl

/-! ### The start of a command -/

/-- A command with good arguments and a payload within the bound starts to send its frame (R200, 42_command_protocol.md
R174). -/
theorem exec_starts (c : Command) (hi : encode i = encodeCall c f) (hs : s.seqState = .idle)
    (ha : argCheck s.cfg c f = .ok ()) (hl : (cmdPayload s.cfg s.password c f).length ≤ s.cfg.maxPayload) :
    exec i s = .next (s.sending 0 c.selector f 0x01 (cmdPayload s.cfg s.password c f)) := by
  obtain ⟨-, -, hstart⟩ := (executeStartsItsCommand s f hs).2 c
  rw [exec_of_encode_call hi, hstart ha hl]

/-- A command with a bad argument is rejected with that argument's reason (R200, 42_command_protocol.md R173). -/
theorem exec_rejects (c : Command) (m : Misuse) (hi : encode i = encodeCall c f) (hs : s.seqState = .idle)
    (ha : argCheck s.cfg c f = .error m) : exec i s = .next (s.rejecting 0 c.selector f m.code) := by
  obtain ⟨hreject, -⟩ := (executeStartsItsCommand s f hs).2 c
  rw [exec_of_encode_call hi, hreject m ha]

/-- Settles O18: the slot passes its check or it does not, for each of the three commands. -/
theorem slotCommandsStartOrReject : Obligations.SlotCommandsStartOrReject := by
  intro s x t hs hm
  refine ⟨fun hx => ?starts, fun h1 h2 => ?rejects⟩
  case starts =>
    have ha := checkSlot_eq_ok hx
    exact ⟨exec_starts .extractFeatures rfl hs ha hm, exec_starts .uploadModel rfl hs ha hm,
      exec_starts .downloadModel rfl hs ha hm⟩
  case rejects =>
    have ha := checkSlot_eq_error h1 h2
    exact ⟨exec_rejects .extractFeatures .badSlot rfl hs ha, exec_rejects .uploadModel .badSlot rfl hs ha,
      exec_rejects .downloadModel .badSlot rfl hs ha⟩

/-- Settles O19: the location passes its check or it does not, for both commands; StoreModel's payload is one byte shorter. -/
theorem locationCommandsStartOrReject : Obligations.LocationCommandsStartOrReject := by
  intro s loc t hs hm
  refine ⟨fun hloc => ?starts, fun hloc => ?rejects⟩
  case starts =>
    have ha := checkLocation_eq_ok hloc
    exact ⟨exec_starts .storeModel rfl hs ha (Nat.le_of_succ_le hm), exec_starts .deleteModel rfl hs ha hm⟩
  case rejects =>
    have ha := checkLocation_eq_error hloc
    exact ⟨exec_rejects .storeModel .badLocation rfl hs ha, exec_rejects .deleteModel .badLocation rfl hs ha⟩

/-- Settles O20: the two checks in their order. -/
theorem loadModelStartsOrRejects : Obligations.LoadModelStartsOrRejects := by
  intro s loc x t hs hm
  refine ⟨fun h1 h2 => ?slot, fun hx hloc => ?location, fun hx hloc => ?starts⟩
  case slot =>
    exact exec_rejects .loadModel .badSlot rfl hs (by rw [argCheck_loadModel, checkSlot_eq_error h1 h2, error_bind])
  case location =>
    exact exec_rejects .loadModel .badLocation rfl hs
      (by rw [argCheck_loadModel, checkSlot_eq_ok hx, ok_bind, checkLocation_eq_error hloc])
  case starts =>
    exact exec_starts .loadModel rfl hs (by rw [argCheck_loadModel, checkSlot_eq_ok hx, ok_bind, checkLocation_eq_ok hloc]) hm

/-- Settles O16: the payload of each is its opcode byte. -/
theorem commandsWithoutOperandsStart : Obligations.CommandsWithoutOperandsStart :=
  fun _ _ hs hm => ⟨exec_starts .captureImage rfl hs rfl hm, exec_starts .createModel rfl hs rfl hm,
    exec_starts .emptyDatabase rfl hs rfl hm, exec_starts .getTemplateCount rfl hs rfl hm⟩

/-- Settles O17: a password, of the register or the operand, is sent behind the opcode byte. -/
theorem passwordCommandsStart : Obligations.PasswordCommandsStart :=
  fun _ _ _ hs hm => ⟨exec_starts .verifyPassword rfl hs rfl hm, exec_starts .setPassword rfl hs rfl hm⟩

/-- Settles O21: the argument bytes of FastSearch are constants and the page count, five in all. -/
theorem fastSearchStarts : Obligations.FastSearchStarts :=
  fun _ _ hs hm => exec_starts .fastSearch rfl hs rfl hm

/-! ### The end of a command -/

/-- The request in progress takes the step that the FPE takes in its turn (log 12). -/
theorem exec_execute_inProgress {t : State} {c : BitVec 4} (ht : s.fpeTurn t) (hs : t.seqState ≠ .idle)
    (hr : t.holds ⟨headerOf c kindExecute, f⟩ = true) : exec (.execute c f) t = step s :=
  (stepContinuesTheRequestInProgress s t _ _ ht hs hr (decode_encodeRecord kindExecute c f)).symm

/-- A command in progress whose acknowledgement of status `0x00` is complete ends with its result (R200, 42_command_protocol.md
R181). -/
theorem exec_finishes (c : Command) {a : Word} {fs : List Byte} (hi : encode i = encodeCall c f) (hs : s.seqState = .rx)
    (hd : s.prs.state = .done) (hf : s.prs.frame = .ok ⟨a, typeAck, 0x00 :: fs⟩) (hr : s.holds (c.request f) = true) :
    exec i s = .next (resultOf c.selector fs a s) := by
  obtain ⟨hk, hc, -⟩ := holds_iff.mp hr
  simp only [Command.request, headerOf_kind, headerOf_selector] at hk hc
  have hturn : ({ s with agenda := .fpe :: s.agenda } : State).fpeTurn s := .inr ⟨s.agenda, rfl, rfl⟩
  rw [exec_of_encode_call hi, exec_execute_inProgress hturn (by simp [hs]) hr, step_finishAck hturn hs hd hk hf,
    finishAck_result hc, toOutcome_ok]

/-- `exec_finishes` for a command with the default result (R200). -/
theorem exec_finishes_default (c : Command) {a : Word} {fs : List Byte} (hi : encode i = encodeCall c f)
    (hs : s.seqState = .rx) (hd : s.prs.state = .done) (hf : s.prs.frame = .ok ⟨a, typeAck, 0x00 :: fs⟩)
    (h1 : c ≠ .fastSearch) (h2 : c ≠ .getTemplateCount) (hr : s.holds (c.request f) = true) :
    exec i s = .next (s.finished (okResponse fs a)) := by
  rw [exec_finishes c hi hs hd hf hr, resultOf_default h1 h2, conclude_eq_finished]

/-- Settles O46: the default result, command by command. -/
theorem catalogueCommandsFinish : Obligations.CatalogueCommandsFinish := by
  rintro s t a w x loc fs r hs hd hf rfl
  have finishes : ∀ {i f} (c : Command), encode i = encodeCall c f → c ≠ .fastSearch → c ≠ .getTemplateCount →
      s.holds (c.request f) = true → exec i s = .next (s.finished (okResponse fs a)) :=
    fun c hi => exec_finishes_default c hi hs hd hf
  exact ⟨finishes .verifyPassword rfl nofun nofun, finishes .captureImage rfl nofun nofun,
    finishes .extractFeatures rfl nofun nofun, finishes .createModel rfl nofun nofun, finishes .storeModel rfl nofun nofun,
    finishes .loadModel rfl nofun nofun, finishes .uploadModel rfl nofun nofun, finishes .downloadModel rfl nofun nofun,
    finishes .deleteModel rfl nofun nofun, finishes .emptyDatabase rfl nofun nofun, finishes .setPassword rfl nofun nofun⟩

/-- Settles O47: by the number of result bytes. -/
theorem fastSearchRecordsTheMatch : Obligations.FastSearchRecordsTheMatch := by
  intro s t a hs hd hr
  have hresult : ∀ fs, s.prs.frame = .ok ⟨a, 0x07, 0x00 :: fs⟩ → exec (.fastSearch t) s = .next (resultFastSearch fs a s) :=
    fun fs hf => (exec_finishes .fastSearch rfl hs hd hf hr).trans (congrArg _ (resultOf_fastSearch fs a s))
  refine ⟨fun idHi idLo confHi confLo more hf => ?matched, fun fs hshort hf => ?short⟩
  case matched => rw [hresult _ hf]; rfl
  case short => rw [hresult fs hf, resultFastSearch_short hshort]; rfl

/-- Settles O48: by the number of result bytes. -/
theorem getTemplateCountRecordsTheCount : Obligations.GetTemplateCountRecordsTheCount := by
  intro s t a hs hd hr
  have hresult : ∀ fs, s.prs.frame = .ok ⟨a, 0x07, 0x00 :: fs⟩ →
      exec (.getTemplateCount t) s = .next (resultGetTemplateCount fs a s) :=
    fun fs hf => (exec_finishes .getTemplateCount rfl hs hd hf hr).trans (congrArg _ (resultOf_getTemplateCount fs a s))
  refine ⟨fun cntHi cntLo more hf => ?counted, fun fs hshort hf => ?short⟩
  case counted => rw [hresult _ hf]; rfl
  case short => rw [hresult fs hf, resultGetTemplateCount_short hshort]; rfl

/-- Settles O45: the finish step with the default result. -/
theorem successfulAckIsOk : Obligations.SuccessfulAckIsOk := by
  intro s t a fs c ht hs hd hk hc hf h1 h2
  rw [step_finishAck ht hs hd hk hf, finishAck_result hc, resultOf_default h1 h2, toOutcome_ok, conclude_eq_finished]
  rfl

end Sys2Proof.Machine
end

section
/-! SUPPORT. Responses and session results (60_exceptions.md R240, R246): what each move does to the records delivered to the
host and to the registers of the last search and the last count. -/

namespace Sys2Proof.Machine

variable {s t : State}

/-- A step is one of the FPE, or one of another agent, that writes only the ports, the clock and the agenda (00_scope.md
R12), or a reset. -/
theorem Move.byAgent (hm : Move s t) :
    (∃ rest, FpeMove { s with agenda := rest } t)
      ∨ (∃ elapsed rxq ready hostq rest,
          t = { s with elapsedMs := elapsed, rxq := rxq, txReady := ready, hostq := hostq, agenda := rest })
      ∨ ∃ cfg rest, s.agenda = .rst cfg :: rest ∧ t = ({ s with agenda := rest } : State).resetFpe cfg := by
  cases hm with
  | fpeAlone _ _ hm => exact .inl ⟨s.agenda, hm⟩
  | fpe _ rest _ hm => exact .inl ⟨rest, hm⟩
  | heldTick _ _ _ _ hm => exact .inl ⟨s.agenda, hm⟩
  | tick => unfold State.tick; split <;> exact .inr (.inl ⟨_, _, _, _, _, rfl⟩)
  | offer => exact .inr (.inl ⟨_, _, _, _, _, rfl⟩)
  | rx => exact .inr (.inl ⟨_, _, _, _, _, rfl⟩)
  | txReady => exact .inr (.inl ⟨_, _, _, _, _, rfl⟩)
  | rst cfg rest ha => exact .inr (.inr ⟨cfg, rest, ha, rfl⟩)

/-! ### Responses -/

/-- From `s` to `t` either nothing is answered and no request ends, or one response is delivered and the Sequencer is IDLE
(R240, 42_command_protocol.md R182). -/
def State.AnswersOnce (s t : State) : Prop :=
  (t.responses = s.responses ∧ (t.seqState = .idle → s.seqState = .idle))
    ∨ ∃ r, t.responses = s.responses ++ [r] ∧ t.seqState = .idle

/-- Of the steps on the request in progress exactly those that end it answer (42_command_protocol.md R176, R177). -/
theorem SeqMove.answersOnce (hm : SeqMove s t) : s.AnswersOnce t := by
  cases hm with
  | wait => exact .inl ⟨rfl, id⟩
  | transmit => exact .inl ⟨rfl, id⟩
  | parse => exact .inl ⟨rfl, nofun⟩
  | sent => exact .inr ⟨_, rfl, rfl⟩
  | byte => exact .inl ⟨rfl, id⟩
  | timeout => exact .inl ⟨rfl, id⟩
  | conclude r => exact .inr ⟨r, rfl, rfl⟩
  | matched _ _ r => exact .inr ⟨r, rfl, rfl⟩
  | counted _ r => exact .inr ⟨r, rfl, rfl⟩

/-- The accept step answers a request that it rejects, and leaves IDLE with one that it starts (42_command_protocol.md R170). -/
theorem accept_answersOnce (r : Request) (s : State) : s.AnswersOnce (accept r s) := by
  obtain ⟨_, -, he⟩ | ⟨_, _, -, he⟩ | ⟨-, he⟩ := accept_cases r s <;> rw [he]
  · exact .inr ⟨_, rfl, rfl⟩
  · exact .inl ⟨rfl, nofun⟩
  · exact .inl ⟨rfl, nofun⟩

theorem FpeMove.answersOnce (hm : FpeMove s t) : s.AnswersOnce t := by
  cases hm with
  | waitForRequest => exact .inl ⟨rfl, id⟩
  | accept _ rest r => exact accept_answersOnce r { s with hostq := rest }
  | goOn _ _ hm => exact hm.answersOnce

/-- A reset answers nothing (70_reset_and_hazards.md R270); every other move answers once or lets the request go on. -/
theorem Move.answersOnce (hm : Move s t) :
    (∃ cfg rest, s.agenda = .rst cfg :: rest ∧ t.responses = s.responses) ∨ s.AnswersOnce t := by
  obtain ⟨rest, hm⟩ | ⟨_, _, _, _, _, rfl⟩ | ⟨cfg, rest, ha, rfl⟩ := hm.byAgent
  · exact .inr hm.answersOnce
  · exact .inr (.inl ⟨rfl, id⟩)
  · exact .inl ⟨cfg, rest, ha, rfl⟩

/-- Settles O59: by what the move answers. -/
theorem responsesComeOneAtATimeAndEndTheRequest : Obligations.ResponsesComeOneAtATimeAndEndTheRequest := by
  intro s t hst
  obtain ⟨cfg, rest, ha, hkept⟩ | ⟨hkept, hgo⟩ | ⟨r, hr, hidle⟩ := (step_move hst).answersOnce
  · exact ⟨.inl hkept, fun _ _ hrst => absurd ha (hrst cfg rest)⟩
  · exact ⟨.inl hkept, fun hs ht _ => absurd (hgo ht) hs⟩
  · exact ⟨.inr ⟨r, hr, hidle⟩, fun _ _ _ => ⟨r, hr⟩⟩

/-! ### Session results -/

/-- The step from `s` to `t` ends EXECUTE FastSearch with OK and records the match that it answers (43_device_operations.md
R211). -/
def State.RecordsMatch (s t : State) : Prop :=
  s.seqState = .rx ∧ s.prs.state = .done ∧ s.reqKind = some 0 ∧ s.reqCmd = some 10 ∧ t.matchValid = true
    ∧ ∃ r, t.responses = s.responses ++ [r] ∧ r.kind = .ok ∧ r.v1 = t.matchId ∧ r.v2 = t.confidence

/-- The step from `s` to `t` ends EXECUTE GetTemplateCount with OK and records the count that it answers
(43_device_operations.md R212). -/
def State.RecordsCount (s t : State) : Prop :=
  s.seqState = .rx ∧ s.prs.state = .done ∧ s.reqKind = some 0 ∧ s.reqCmd = some 11 ∧ t.countValid = true
    ∧ ∃ r, t.responses = s.responses ++ [r] ∧ r.kind = .ok ∧ r.v1 = t.templateCount

/-- From `s` to `t` each session result stays, or the step records it (R246). -/
def State.KeepsOrRecords (s t : State) : Prop :=
  ((t.matchId, t.confidence, t.matchValid) = (s.matchId, s.confidence, s.matchValid) ∨ s.RecordsMatch t)
    ∧ ((t.templateCount, t.countValid) = (s.templateCount, s.countValid) ∨ s.RecordsCount t)

/-- Of the steps on the request in progress only the two with a result of their own write a session result. -/
theorem SeqMove.keepsOrRecords (hm : SeqMove s t) : s.KeepsOrRecords t := by
  cases hm with
  | matched id conf r hs hd hk hc hr h1 h2 => exact ⟨.inr ⟨hs, hd, hk, hc, rfl, r, rfl, hr, h1, h2⟩, .inl rfl⟩
  | counted n r hs hd hk hc hr h1 => exact ⟨.inl rfl, .inr ⟨hs, hd, hk, hc, rfl, r, rfl, hr, h1⟩⟩
  | _ => exact ⟨.inl rfl, .inl rfl⟩

/-- The accept step leaves the session results, whether it rejects or starts (42_command_protocol.md R170). -/
theorem accept_keepsOrRecords (r : Request) (s : State) : s.KeepsOrRecords (accept r s) := by
  obtain ⟨_, -, he⟩ | ⟨_, _, -, he⟩ | ⟨-, he⟩ := accept_cases r s <;> rw [he] <;> exact ⟨.inl rfl, .inl rfl⟩

theorem FpeMove.keepsOrRecords (hm : FpeMove s t) : s.KeepsOrRecords t := by
  cases hm with
  | waitForRequest => exact ⟨.inl rfl, .inl rfl⟩
  | accept _ rest r => exact accept_keepsOrRecords r { s with hostq := rest }
  | goOn _ _ hm => exact hm.keepsOrRecords

/-- Settles O57: a step that is no reset keeps each session result or records it, so one that changes it records it. -/
theorem sessionResultsChangeOnlyWithAnOkAnswer : Obligations.SessionResultsChangeOnlyWithAnOkAnswer := by
  intro s t hst hrst
  have hkeeps : s.KeepsOrRecords t := by
    obtain ⟨rest, hm⟩ | ⟨_, _, _, _, _, rfl⟩ | ⟨cfg, rest, ha, -⟩ := (step_move hst).byAgent
    · exact hm.keepsOrRecords
    · exact ⟨.inl rfl, .inl rfl⟩
    · exact absurd ha (hrst cfg rest)
  obtain ⟨hmatch, hcount⟩ := hkeeps
  exact ⟨hmatch.resolve_left, hcount.resolve_left⟩

end Sys2Proof.Machine
end

section
/-! SUPPORT. Reset and hazards (70_reset_and_hazards.md): what a reset loads, that the reset state is one of the invariant, and
the noise that keeps a parse from timing out. -/

namespace Sys2Proof.Machine

variable {s : State}

/-! ### Reset -/

/-- In its turn a reset is taken at once, in any state (R270). -/
theorem step_rst {cfg : Config} {rest : List Turn} (ha : s.agenda = .rst cfg :: rest) :
    step s = .next (({ s with agenda := rest } : State).resetFpe cfg) := by
  simp only [step, ha]

/-- The reset state is the reset of itself: a reset changes neither its registers nor its ports (R271). -/
theorem resetFpe_reset : State.reset.resetFpe Config.standard = State.reset := rfl

/-- Settles O51: the reset turn, and the value that reset gives each register. -/
theorem resetLoadsEveryRegister : Obligations.ResetLoadsEveryRegister :=
  fun _ _ _ ha => step_rst ha

/-- Settles O53: a reset leads to a state of the invariant, and the reset state is what its own reset leads to. -/
theorem resetSatisfiesTheInvariant : Obligations.ResetSatisfiesTheInvariant := by
  have hinv : (State.reset.resetFpe Config.standard).Inv := resetFpe_inv State.reset Config.standard
  rwa [resetFpe_reset] at hinv

/-! ### The hang of R280 -/

/-- Settles O39: FEED leaves the parser as it is at each byte of noise, and the run takes one step for each byte. -/
theorem endlessNoiseKeepsTheParseRunning : Obligations.EndlessNoiseKeepsTheParseRunning := by
  intro s junk rest hs hp hj hr ha
  have hfeed : feedAll s.cfg.maxPayload s.prs junk = .ok (s.prs, []) := feedAll_noise hp hj
  exact run_feed ha hs hr hfeed

end Sys2Proof.Machine
end
